-- ==== Sys2Proof/Word.lean ====
section
/-! DEFINITION. The value types of CORE: bits, bytes and frames (rule R9: every value is an unsigned bit vector of a stated
width), the small enumerations the rules range over, and an event on a port (rules R4, R5). -/

namespace Sys2Proof

/-- A one-bit value: a line level, a flag, a byte-phase. -/
abbrev Bit := BitVec 1

/-- An 8-bit value: a bus transfer, a command byte (rules R6, R51, R55). -/
abbrev Byte := BitVec 8

/-- A 16-bit frame (rule R52). -/
abbrev Frame := BitVec 16

/-- The three scan rows (rules R6, R9, R20). -/
inductive Row where
  | row1 | row2 | row3
deriving DecidableEq, Repr

/-- All rows, for statements that range over them. -/
def Row.all : List Row := [.row1, .row2, .row3]

/-- The five switch channels, by number (rules R6, R57). -/
inductive Channel where
  | ch1 | ch2 | ch3 | ch4 | ch5
deriving DecidableEq, Repr

/-- All channels, for statements that range over them. -/
def Channel.all : List Channel := [.ch1, .ch2, .ch3, .ch4, .ch5]

/-- The four sources of operations (rule R5). -/
inductive Agent where
  | bus | fvLine | host | rst
deriving DecidableEq, Repr

/-- The ports an event can arrive on: one for each operation of rule R4 that an agent can cause (rule R60's last
paragraph). The internal actions have no port. -/
inductive Port where
  /-- a two-byte request, format CMD2 (rule R55) -/
  | command
  /-- one byte of the command stream (rule R105) -/
  | stream
  /-- one byte from the external master, format BUSBYTE (rule R51) -/
  | bus
  /-- one serial data bit (rule R72) -/
  | serial
  /-- the frame-valid line, format FVLEVEL (rule R51) -/
  | frameValid
  /-- one foreground iteration with the level of `alarm_in` (rule R134) -/
  | alarm
  /-- power-on (rule R160) -/
  | resetLine
  /-- the store-level calls of the host (rules R88, R95 to R100) -/
  | setp | clrp | arm | rdp | rdch | rdf | drvmode
deriving DecidableEq, Repr

/-- Which agent issues the operations of a port (rules R4, R5). -/
def Port.agent : Port → Agent
  | .bus | .serial => .bus
  | .frameValid => .fvLine
  | .resetLine => .rst
  | .command | .stream | .alarm | .setp | .clrp | .arm | .rdp | .rdch | .rdf | .drvmode => .host

/-- One input event: a port and the bits it carries, as the number they spell. A port carries only as many bits as its
format has; log entry 5. -/
structure Event where
  port : Port
  word : Nat
deriving DecidableEq, Repr

end Sys2Proof
end

