-- ==== Sys2Proof/Config.lean ====
section
/-! DEFINITION. The parameters the source leaves open, one field each (rule R7). A claim holds for every configuration or
names one; log entry 3. The parameters the source fixes (rule R6) are in Machine/Params.lean. -/

namespace Sys2Proof

/-- The configuration of rule R7. Its constraints are `Machine.ConfigValid`. -/
structure Config where
  /-- OV_W, width of `persist` and `oneshot` -/
  ovW : Nat
  /-- ROW_SHIFT[1] -/
  rowShift1 : Nat
  /-- ROW_SHIFT[2] -/
  rowShift2 : Nat
  /-- ROW1_BIT, read by no rule -/
  row1Bit : Nat
  /-- CH_BIT[1] -/
  chBit1 : Nat
  /-- CH_BIT[2] -/
  chBit2 : Nat
  /-- CH_BIT[3] -/
  chBit3 : Nat
  /-- CH_BIT[4] -/
  chBit4 : Nat
  /-- CH_BIT[5] -/
  chBit5 : Nat
  /-- PORT_W, width of `pout` -/
  portW : Nat
  /-- OUT_SHIFT, position of matrix line 0 in `pout` -/
  outShift : Nat
  /-- POUT_OTHER_RESET -/
  poutOtherReset : BitVec portW
  /-- CLEAR_ON_BYTE: the clearing reading of rule R73 -/
  clearOnByte : Bool
  /-- MSB_FIRST: bit order of the bit layer (rule R32) -/
  msbFirst : Bool
  /-- FV_IDLE, reset value of `fv_q` -/
  fvIdle : Bit
  /-- DRIVE_EN_RESET, reset value of `drive_en` -/
  driveEnReset : Bit
  /-- RDCH_NORMALISED: form of the value `R n` returns (rule R99) -/
  rdchNormalised : Bool
  /-- TERM_CLEARS_PENDING: a terminator drops a pending command byte (rule R105) -/
  termClearsPending : Bool
deriving DecidableEq, Repr

end Sys2Proof
end

