-- ==== Sys2Proof/Machine/Params.lean ====
section
/-! DEFINITION. The parameters the source fixes (rule R6), accessors of the open ones by row and channel, the constraints
of rule R7, the masks and the reference configuration of rule R8. -/

namespace Sys2Proof.Machine

/-- ROW_SHIFT[r]: position of row `r`'s slice in the overlay registers; row 3's is fixed at 4 (rules R6, R7). -/
def rowShift (c : Config) : Row → Nat
  | .row1 => c.rowShift1
  | .row2 => c.rowShift2
  | .row3 => 4

/-- CH_BIT[n]: the overlay bit of channel `n` (rule R7). -/
def chBit (c : Config) : Channel → Nat
  | .ch1 => c.chBit1
  | .ch2 => c.chBit2
  | .ch3 => c.chBit3
  | .ch4 => c.chBit4
  | .ch5 => c.chBit5

/-- ROW3_BIT, the frame bit that marks row 3 (rule R6). -/
def row3Bit : Nat := 15

/-- ROW2_BIT, the frame bit that marks row 2 (rule R6). -/
def row2Bit : Nat := 14

/-- ROW_MASK[r] = 0b11 << ROW_SHIFT[r], OV_W bits (rule R8). -/
def rowMask (c : Config) (r : Row) : BitVec c.ovW := BitVec.ofNat c.ovW 3 <<< rowShift c r

/-- CH_MASK[n] = 1 << CH_BIT[n], OV_W bits (rules R8, R57). -/
def chMask (c : Config) (n : Channel) : BitVec c.ovW := BitVec.ofNat c.ovW 1 <<< chBit c n

/-- LINE_MASK = 0b11 << OUT_SHIFT, PORT_W bits (rule R8). -/
def lineMask (c : Config) : BitVec c.portW := BitVec.ofNat c.portW 3 <<< c.outShift

/-- The channel bits together: CH_MASK[1] | ... | CH_MASK[5] (rule R28, invariant 5). -/
def channelBits (c : Config) : BitVec c.ovW :=
  chMask c .ch1 ||| chMask c .ch2 ||| chMask c .ch3 ||| chMask c .ch4 ||| chMask c .ch5

/-- Bit `i` belongs to the slice of row `r`. -/
def inSlice (c : Config) (r : Row) (i : Nat) : Bool := decide (rowShift c r ≤ i ∧ i < rowShift c r + 2)

/-- Bit `i` of the output port is one of the two matrix lines (rule R54). -/
def isLine (c : Config) (i : Nat) : Bool := decide (c.outShift ≤ i ∧ i < c.outShift + 2)

/-- The constraints of rule R7 on the open parameters. -/
abbrev ConfigValid (c : Config) : Prop :=
  6 ≤ c.ovW ∧
  (∀ r ∈ Row.all, rowShift c r + 2 ≤ c.ovW) ∧
  (∀ r ∈ Row.all, ∀ r' ∈ Row.all, r = r' ∨ rowShift c r + 2 ≤ rowShift c r' ∨ rowShift c r' + 2 ≤ rowShift c r) ∧
  (∀ n ∈ Channel.all, ∀ n' ∈ Channel.all, n = n' ∨ chBit c n ≠ chBit c n') ∧
  (∀ n ∈ Channel.all, ∃ r ∈ Row.all, inSlice c r (chBit c n) = true) ∧
  (∃ n ∈ Channel.all, chBit c n = 4) ∧
  (∃ n ∈ Channel.all, chBit c n = 5) ∧
  c.row1Bit < 16 ∧ c.row1Bit ≠ row3Bit ∧ c.row1Bit ≠ row2Bit ∧
  2 ≤ c.portW ∧ c.outShift + 2 ≤ c.portW

/-- CFG_REF, the reference configuration (rule R8, column "reference" of rule R7); not a claim about the original device. -/
def cfgRef : Config where
  ovW := 8
  rowShift1 := 0
  rowShift2 := 2
  row1Bit := 13
  chBit1 := 1
  chBit2 := 2
  chBit3 := 3
  chBit4 := 4
  chBit5 := 5
  portW := 8
  outShift := 0
  poutOtherReset := 0x00
  clearOnByte := false
  msbFirst := true
  fvIdle := 0
  driveEnReset := 0
  rdchNormalised := true
  termClearsPending := false

end Sys2Proof.Machine
end

