-- ==== Sys2Proof/Syntax.lean ====
section
/-! DEFINITION. The operations of CORE, one constructor per row of spec/opcode_table.json, in the table's order (rule R4:
operations take the place of instructions). -/

namespace Sys2Proof

/-- One operation or internal action, with its operands. A mask in OVERLAY format (`m`, `p`, `o`) stands as the number it
spells, since its width OV_W is the configuration's: bit `i` of the mask selects bit `i` of the register (rule R53; log entry 5). -/
inductive Instr where
  -- the 28 two-byte requests (rule R60)
  | ra | rw | rs
  | r1 | r2 | r3 | r4 | r5 | r6
  | s1 | s2 | s3 | s4 | s5 | s6
  | u1 | u2 | u3 | u4 | u5 | u6
  | p1 | p2 | p3 | p4 | p5
  | en | ds
  -- the two fallbacks, with the request that reached them (rules R115, R116)
  | unhandled (c t : Byte)
  | unknown (c t : Byte)
  -- events (rules R70, R72, R90, R134, R160)
  | byte (d : Byte)
  | bit (b : Bit)
  | fv (l : Bit)
  | tick (alarmIn : Bit)
  | reset
  -- the store level of the host port (rules R95 to R100, R88)
  | setp (m : Nat)
  | clrp (m : Nat)
  | arm (m : Nat)
  | rdp
  | rdch (m : Nat)
  | rdf
  | drvmode (v : Bit)
  -- internal actions, which no port causes (rules R71, R80 to R84, R91)
  | complete
  | engine
  | rowsel (f : Frame)
  | ovmux (r : Row) (p o : Nat)
  | drive (s : BitVec 2)
  | consume (r : Row)
  | resync
  -- command framing (rule R105)
  | char (x : Byte)
deriving DecidableEq, Repr

end Sys2Proof
end

