-- ==== Sys2Proof/WellFormed.lean ====
section
/-! DEFINITION. Which instructions are well-formed under a configuration: masks fit in OV_W bits (rules R53, R95), and a
fallback holds a request that rule R61 sends to it. -/

namespace Sys2Proof

/-- The targets rule R60 lists for a command byte, as character codes (rule R59); `none` for a byte that is no command letter. -/
def listedTargets (c : Byte) : Option (List Byte) :=
  if c = 0x52 then some [0x41, 0x57, 0x53, 0x31, 0x32, 0x33, 0x34, 0x35, 0x36]
  else if c = 0x53 ∨ c = 0x55 then some [0x31, 0x32, 0x33, 0x34, 0x35, 0x36]
  else if c = 0x50 then some [0x31, 0x32, 0x33, 0x34, 0x35]
  else if c = 0x45 then some [0x4E]
  else if c = 0x44 then some [0x53]
  else none

/-- A known command letter with a target that is not listed for it (rule R115). -/
def isUnhandledRequest (c t : Byte) : Bool :=
  match listedTargets c with
  | some ts => !ts.contains t
  | none => false

/-- A command letter that is none of R S U P E D (rule R116). -/
def isUnknownRequest (c : Byte) : Bool :=
  (listedTargets c).isNone

/-- A mask names only bits of the overlay registers (rule R53). -/
def maskFits (c : Config) (m : Nat) : Bool :=
  decide (m < 2 ^ c.ovW)

/-- Well-formedness of an instruction under a configuration. -/
def Instr.wf (c : Config) : Instr → Bool
  | .ra | .rw | .rs | .r1 | .r2 | .r3 | .r4 | .r5 | .r6
  | .s1 | .s2 | .s3 | .s4 | .s5 | .s6
  | .u1 | .u2 | .u3 | .u4 | .u5 | .u6
  | .p1 | .p2 | .p3 | .p4 | .p5 | .en | .ds => true
  | .unhandled l t => isUnhandledRequest l t
  | .unknown l _ => isUnknownRequest l
  | .byte _ | .bit _ | .fv _ | .tick _ | .reset | .rdp | .rdf | .drvmode _ => true
  | .setp m | .clrp m | .arm m | .rdch m => maskFits c m
  | .complete | .engine | .rowsel _ | .drive _ | .consume _ | .resync => true
  | .ovmux _ p o => maskFits c p && maskFits c o
  | .char _ => true

end Sys2Proof
end

