-- ==== Sys2Proof/Decode.lean ====
section
/-! DEFINITION. From an event on a port to the operation it causes (rules R50 to R61, R106), and the encoder beside it. The
decoder is total: every word of every port is an operation, since an unlisted request is UNHANDLED or UNKNOWN
(rule R106, corner case (c)). No event decodes to an internal action (rule R71). -/

namespace Sys2Proof

/-- The opcode map of rule R60: each two-byte request `w = c ++ t` and its operation. -/
def commandTable : List (BitVec 16 × Instr) :=
  [(0x5241, .ra), (0x5257, .rw), (0x5253, .rs),
   (0x5231, .r1), (0x5232, .r2), (0x5233, .r3), (0x5234, .r4), (0x5235, .r5), (0x5236, .r6),
   (0x5331, .s1), (0x5332, .s2), (0x5333, .s3), (0x5334, .s4), (0x5335, .s5), (0x5336, .s6),
   (0x5531, .u1), (0x5532, .u2), (0x5533, .u3), (0x5534, .u4), (0x5535, .u5), (0x5536, .u6),
   (0x5031, .p1), (0x5032, .p2), (0x5033, .p3), (0x5034, .p4), (0x5035, .p5),
   (0x454E, .en), (0x4453, .ds)]

/-- The six command letters R S U P E D (rules R59, R60). -/
def isCommandLetter (c : Byte) : Bool :=
  c == 0x52 || c == 0x53 || c == 0x55 || c == 0x50 || c == 0x45 || c == 0x44

/-- A line terminator, `\r` or `\n` (rules R59, R105). -/
def isTerminator (x : Byte) : Bool := x == 0x0D || x == 0x0A

/-- The request word of a command byte and a target byte, command first (rule R55). -/
def requestWord (c t : Byte) : BitVec 16 := c ++ t

/-- DISPATCH's decode (rule R106): the command letter is tested first, then the table, else the fallback. -/
def decodeCommand (c t : Byte) : Instr :=
  if isCommandLetter c then
    match commandTable.lookup (requestWord c t) with
    | some i => i
    | none => .unhandled c t
  else .unknown c t

/-- How many bits each port carries (rules R50, R51, R53, R55). -/
def portWidth (c : Config) : Port → Nat
  | .command => 16
  | .stream | .bus => 8
  | .serial | .frameValid | .alarm | .drvmode => 1
  | .setp | .clrp | .arm | .rdch => c.ovW
  | .resetLine | .rdp | .rdf => 0

/-- The operation an event causes. -/
def decode (c : Config) (e : Event) : Instr :=
  match e.port with
  | .command => decodeCommand (BitVec.ofNat 8 (e.word / 256)) (BitVec.ofNat 8 e.word)
  | .stream => .char (BitVec.ofNat 8 e.word)
  | .bus => .byte (BitVec.ofNat 8 e.word)
  | .serial => .bit (BitVec.ofNat 1 e.word)
  | .frameValid => .fv (BitVec.ofNat 1 e.word)
  | .alarm => .tick (BitVec.ofNat 1 e.word)
  | .resetLine => .reset
  | .setp => .setp (e.word % 2 ^ c.ovW)
  | .clrp => .clrp (e.word % 2 ^ c.ovW)
  | .arm => .arm (e.word % 2 ^ c.ovW)
  | .rdp => .rdp
  | .rdch => .rdch (e.word % 2 ^ c.ovW)
  | .rdf => .rdf
  | .drvmode => .drvmode (BitVec.ofNat 1 e.word)

/-- The event that causes an operation; none for an internal action, which no port causes (rules R60, R71, R80, R91). -/
def encode : Instr → Option Event
  | .ra => some ⟨.command, 0x5241⟩
  | .rw => some ⟨.command, 0x5257⟩
  | .rs => some ⟨.command, 0x5253⟩
  | .r1 => some ⟨.command, 0x5231⟩
  | .r2 => some ⟨.command, 0x5232⟩
  | .r3 => some ⟨.command, 0x5233⟩
  | .r4 => some ⟨.command, 0x5234⟩
  | .r5 => some ⟨.command, 0x5235⟩
  | .r6 => some ⟨.command, 0x5236⟩
  | .s1 => some ⟨.command, 0x5331⟩
  | .s2 => some ⟨.command, 0x5332⟩
  | .s3 => some ⟨.command, 0x5333⟩
  | .s4 => some ⟨.command, 0x5334⟩
  | .s5 => some ⟨.command, 0x5335⟩
  | .s6 => some ⟨.command, 0x5336⟩
  | .u1 => some ⟨.command, 0x5531⟩
  | .u2 => some ⟨.command, 0x5532⟩
  | .u3 => some ⟨.command, 0x5533⟩
  | .u4 => some ⟨.command, 0x5534⟩
  | .u5 => some ⟨.command, 0x5535⟩
  | .u6 => some ⟨.command, 0x5536⟩
  | .p1 => some ⟨.command, 0x5031⟩
  | .p2 => some ⟨.command, 0x5032⟩
  | .p3 => some ⟨.command, 0x5033⟩
  | .p4 => some ⟨.command, 0x5034⟩
  | .p5 => some ⟨.command, 0x5035⟩
  | .en => some ⟨.command, 0x454E⟩
  | .ds => some ⟨.command, 0x4453⟩
  | .unhandled c t => some ⟨.command, c.toNat * 256 + t.toNat⟩
  | .unknown c t => some ⟨.command, c.toNat * 256 + t.toNat⟩
  | .byte d => some ⟨.bus, d.toNat⟩
  | .bit b => some ⟨.serial, b.toNat⟩
  | .fv l => some ⟨.frameValid, l.toNat⟩
  | .tick a => some ⟨.alarm, a.toNat⟩
  | .reset => some ⟨.resetLine, 0⟩
  | .setp m => some ⟨.setp, m⟩
  | .clrp m => some ⟨.clrp, m⟩
  | .arm m => some ⟨.arm, m⟩
  | .rdp => some ⟨.rdp, 0⟩
  | .rdch m => some ⟨.rdch, m⟩
  | .rdf => some ⟨.rdf, 0⟩
  | .drvmode v => some ⟨.drvmode, v.toNat⟩
  | .complete | .engine | .rowsel _ | .ovmux _ _ _ | .drive _ | .consume _ | .resync => none
  | .char x => some ⟨.stream, x.toNat⟩

/-- The event a word of the opcode table stands for: a 16-bit word is a request on the command port (rule R55), an 8-bit
word is a byte on the bus port (rule R51); other lengths name no single port; log entry 9. -/
def tableEvent (nbits w : Nat) : Option Event :=
  if nbits = 16 then some ⟨.command, w⟩
  else if nbits = 8 then some ⟨.bus, w⟩
  else none

/-- The operation the decoder reads from a word of the opcode table, under the reference configuration. -/
def decodeTableWord (nbits w : Nat) : Option Instr :=
  (tableEvent nbits w).map (decode Machine.cfgRef)

end Sys2Proof
end

