-- ==== Sys2Proof/Machine/Flags.lean ====
section
/-! DEFINITION. The one-bit conditions CORE computes: the phase toggle and frame completion (rules R24, R70), byte completion
(rule R72), the frame-valid transition (rule R90), row selection (rules R20, R81), the channel test (rule R99). CORE has no
carry, overflow or sign (rule R89). -/

namespace Sys2Proof.Machine

/-- `phase ^ 1` (rule R70). -/
def phaseNext (p : Bit) : Bit := p ^^^ 1

/-- The toggle brought the phase back to 0: a frame is complete (rules R70, R71). -/
def completesFrame (newPhase : Bit) : Bool := newPhase == 0

/-- `bitcnt + 1 mod 8` (rule R72). -/
def bitcntNext (n : BitVec 3) : BitVec 3 := n + 1

/-- The count wrapped to 0: a byte is complete (rule R72). -/
def completesByte (newCount : BitVec 3) : Bool := newCount == 0

/-- The line is at another level than last observed: a transition, of either polarity (rule R90). -/
def isTransition (l fvQ : Bit) : Bool := l != fvQ

/-- Row 3 checked first, then row 2, else row 1 (rules R20, R81). -/
def rowOf (f : Frame) : Row :=
  if f.getLsbD row3Bit then .row3 else if f.getLsbD row2Bit then .row2 else .row1

/-- 1 when a masked persistent value is not zero (rule R99). -/
def nonZeroBit {w : Nat} (v : BitVec w) : Bit := if v = 0 then 0 else 1

end Sys2Proof.Machine
end

