-- ==== Sys2Proof/Machine/Operands.lean ====
section
/-! DEFINITION. Operand assembly: frame from bytes, overlay value from mask, slice from overlay, lines from slice (rules R31,
R53, R56, R57, R58). -/

namespace Sys2Proof.Machine

/-- The frame of two stored bytes, the first one high (rules R31, R56). -/
def frameOf (first second : Byte) : Frame := first ++ second

/-- A store-level mask as an OV_W-bit value; bits beyond OV_W name nothing (rule R53; log entry 5). -/
def overlayOfMask (c : Config) (m : Nat) : BitVec c.ovW := BitVec.ofNat c.ovW m

/-- The two bits of an overlay value that belong to row `r` (rules R21, R82). -/
def sliceOf (c : Config) (r : Row) (v : BitVec c.ovW) : BitVec 2 := (v >>> rowShift c r).setWidth 2

/-- A slice shifted into the two matrix output lines (rule R58). -/
def linePattern (c : Config) (s : BitVec 2) : BitVec c.portW := s.setWidth c.portW <<< c.outShift

/-- The two matrix lines of a port value, line 1 high (rules R22, R54). -/
def linesOf (c : Config) (p : BitVec c.portW) : BitVec 2 := (p >>> c.outShift).setWidth 2

/-- A byte with one more serial bit taken in, in the order MSB_FIRST gives (rule R72). -/
def shiftIn (msbFirst : Bool) (sr : Byte) (b : Bit) : Byte :=
  if msbFirst then (sr <<< 1) ||| b.setWidth 8 else (sr >>> 1) ||| (b.setWidth 8 <<< 7)

end Sys2Proof.Machine
end

