-- ==== Sys2Proof/Machine/Registers.lean ====
section
/-! DEFINITION. The registers the spec gives the machine: CORE's tuple (rule R10), the adjacent state (rules R26, R134), and the
values an operation gives out (rules R117, R118). -/

namespace Sys2Proof.Machine

/-- CORE's own state, the tuple of rule R10, under configuration `c`. -/
structure CoreRegs (c : Config) where
  /-- `buf[0]`, the byte stored at phase 0 (rule R11) -/
  buf0 : Byte
  /-- `buf[1]`, the byte stored at phase 1 (rule R11) -/
  buf1 : Byte
  /-- byte-phase: which entry of `buf` the next byte goes to (rule R12) -/
  phase : Bit
  /-- the last completed frame (rule R13) -/
  frame : Frame
  /-- persistent overlay bits (rule R14) -/
  persist : BitVec c.ovW
  /-- one-shot overlay bits (rule R15) -/
  oneshot : BitVec c.ovW
  /-- the output port latch (rule R16) -/
  pout : BitVec c.portW
  /-- 1 = matrix pins driven, 0 = sensed (rule R17) -/
  driveEn : Bit
  /-- the last observed level of the frame-valid line (rule R18) -/
  fvQ : Bit
  /-- serial shift register of the bit layer (rule R19) -/
  sr : Byte
  /-- bits received of the byte in progress (rule R19) -/
  bitcnt : BitVec 3
deriving DecidableEq, Repr

/-- The state beside CORE that the command table reaches (rule R26), and the auxiliary output pin (rule R134). -/
structure Adjacent where
  /-- enable-output flag -/
  auxEnable : Bit
  /-- alarm flag sampled by the last TICK -/
  auxAlarm : Bit
  /-- the command byte waiting for its target, if any -/
  pend : Option Byte
  /-- the level the enable pin was last driven to (rule R134) -/
  enablePin : Bit
deriving DecidableEq, Repr

/-- What a host command answers (rule R118). The response "none" is the absence of one. -/
inductive Response where
  /-- `hex(v)`: a value with its width -/
  | hex (width : Nat) (value : BitVec width)
  /-- the text message of EN; its wording is not given -/
  | textDriven
  /-- the text message of DS; its wording is not given -/
  | textSensed
  /-- "Unhandled statement" -/
  | textUnhandled
  /-- "Unknown command" -/
  | textUnknown
deriving DecidableEq, Repr

/-- The value of a pure internal action (rules R81, R82). -/
inductive ActionResult where
  | row (r : Row)
  | slice (s : BitVec 2)
deriving DecidableEq, Repr

/-- What the last operation gave to the outside: its response (rule R118), the echo of a command-stream byte (rule R117), the
value of a pure internal action; log entries 6 and 7. -/
structure Output where
  response : Option Response
  echo : Option Byte
  result : Option ActionResult
deriving DecidableEq, Repr

/-- Nothing given out. -/
def Output.silent : Output := ⟨none, none, none⟩

end Sys2Proof.Machine
end

