-- ==== Sys2Proof/Machine/ResetValues.lean ====
section
/-! DEFINITION. The reset value of every register (rule R27). -/

namespace Sys2Proof.Machine

/-- CORE's registers after RESET (rule R27). -/
def coreReset (c : Config) : CoreRegs c where
  buf0 := 0x00
  buf1 := 0x00
  phase := 0
  frame := 0x0000
  persist := 0
  oneshot := 0
  pout := c.poutOtherReset &&& ~~~lineMask c
  driveEn := c.driveEnReset
  fvQ := c.fvIdle
  sr := 0x00
  bitcnt := 0

/-- The adjacent state after RESET (rule R27); `enablePin` is DESIGN CHOICE 0, log entry 8. -/
def adjacentReset : Adjacent where
  auxEnable := 0
  auxAlarm := 0
  pend := none
  enablePin := 0

end Sys2Proof.Machine
end

