-- ==== Sys2Proof/Machine/State.lean ====
section
/-! DEFINITION. The state of the machine as plain data: the configuration it runs under (rule R7), every register the spec
names (rules R10, R26, R134; the two structures of Machine/Registers.lean), what the last operation gave out, and the events
still to arrive. -/

namespace Sys2Proof.Machine

/-- The whole machine. -/
structure State where
  /-- the configuration, written by no operation (rule R7; log entry 3) -/
  cfg : Config
  /-- CORE's state (rule R10) -/
  core : CoreRegs cfg
  /-- the adjacent state (rule R26) -/
  adj : Adjacent
  /-- what the last operation gave out (log entry 6) -/
  out : Output
  /-- the events still to arrive, in the order they take effect (rules R38, R174; log entry 1) -/
  inbox : List Event
deriving DecidableEq, Repr

/-- No operation of CORE faults (rule R140): no fault exists, nothing raises one. Safe: a run is never cut short. -/
inductive Fault where
deriving DecidableEq, Repr

/-- Why a step has no meaning. -/
inductive Refusal where
  /-- An instruction without a meaning, rejected by name in exec's arm. No arm uses it: every operation of the spec is
  total (rule R140). Safe: a refusal would stop a run, never give a false next state. -/
  | notModelled (mnemonic : String)
deriving DecidableEq, Repr

/-- The machine right after reset under configuration `c`: idle, nothing given out, no event waiting (rule R27). -/
def State.resetOf (c : Config) : State where
  cfg := c
  core := coreReset c
  adj := adjacentReset
  out := Output.silent
  inbox := []

/-- The machine right after reset, under the reference configuration (rule R8; log entry 3). -/
def State.reset : State := State.resetOf cfgRef

end Sys2Proof.Machine
end

