-- ==== Sys2Proof/Machine/Ops.lean ====
section
/-! DEFINITION. The named operations over CORE's registers, the adjacent state and the inbox. Every meaning goes through
them. CORE takes no exception and returns from none (rules R140, R148, R149), so there is no operation for either. -/

namespace Sys2Proof.Machine

/-- The type of a meaning's answer. -/
abbrev Result := Host.Outcome State Fault Refusal

/-- MemRead(i, 1) = `buf[i]` (rules R9, R11). -/
def CoreRegs.readBuf {c : Config} (k : CoreRegs c) (i : Bit) : Byte := if i = 0 then k.buf0 else k.buf1

/-- MemWrite(i, 1, d): `buf[i] <- d` (rules R9, R11). -/
def CoreRegs.writeBuf {c : Config} (k : CoreRegs c) (i : Bit) (d : Byte) : CoreRegs c :=
  if i = 0 then { k with buf0 := d } else { k with buf1 := d }

/-- `phase <- v` (rule R12). -/
def CoreRegs.setPhase {c : Config} (k : CoreRegs c) (v : Bit) : CoreRegs c := { k with phase := v }

/-- `frame <- v` (rule R13). -/
def CoreRegs.setFrame {c : Config} (k : CoreRegs c) (v : Frame) : CoreRegs c := { k with frame := v }

/-- `persist <- v` (rule R14). -/
def CoreRegs.setPersist {c : Config} (k : CoreRegs c) (v : BitVec c.ovW) : CoreRegs c := { k with persist := v }

/-- `oneshot <- v` (rule R15). -/
def CoreRegs.setOneshot {c : Config} (k : CoreRegs c) (v : BitVec c.ovW) : CoreRegs c := { k with oneshot := v }

/-- `pout <- v` (rule R16). -/
def CoreRegs.setPout {c : Config} (k : CoreRegs c) (v : BitVec c.portW) : CoreRegs c := { k with pout := v }

/-- `drive_en <- v` (rule R17). -/
def CoreRegs.setDriveEn {c : Config} (k : CoreRegs c) (v : Bit) : CoreRegs c := { k with driveEn := v }

/-- `fv_q <- v` (rule R18). -/
def CoreRegs.setFvQ {c : Config} (k : CoreRegs c) (v : Bit) : CoreRegs c := { k with fvQ := v }

/-- `sr <- v` (rule R19). -/
def CoreRegs.setSr {c : Config} (k : CoreRegs c) (v : Byte) : CoreRegs c := { k with sr := v }

/-- `bitcnt <- v` (rule R19). -/
def CoreRegs.setBitcnt {c : Config} (k : CoreRegs c) (v : BitVec 3) : CoreRegs c := { k with bitcnt := v }

/-- `persist <- persist | m` (rules R41, R95). -/
def CoreRegs.setPersistBits {c : Config} (k : CoreRegs c) (m : BitVec c.ovW) : CoreRegs c := k.setPersist (k.persist ||| m)

/-- `persist <- persist & ~m` (rules R41, R96). -/
def CoreRegs.clearPersistBits {c : Config} (k : CoreRegs c) (m : BitVec c.ovW) : CoreRegs c := k.setPersist (k.persist &&& ~~~m)

/-- `oneshot <- oneshot | m` (rules R41, R97). -/
def CoreRegs.armBits {c : Config} (k : CoreRegs c) (m : BitVec c.ovW) : CoreRegs c := k.setOneshot (k.oneshot ||| m)

/-- What RDCH gives back for mask `m`, in the form RDCH_NORMALISED chooses (rule R99; widths by rule R34, log entry 11). -/
def CoreRegs.channelResponse {c : Config} (k : CoreRegs c) (m : BitVec c.ovW) : Response :=
  if c.rdchNormalised then .hex 1 (nonZeroBit (k.persist &&& m)) else .hex c.ovW (k.persist &&& m)

/-- `aux_enable <- v` (rules R132, R133). -/
def Adjacent.setAuxEnable (a : Adjacent) (v : Bit) : Adjacent := { a with auxEnable := v }

/-- `aux_alarm <- v` (rule R134). -/
def Adjacent.setAuxAlarm (a : Adjacent) (v : Bit) : Adjacent := { a with auxAlarm := v }

/-- `pend <- v` (rule R105). -/
def Adjacent.setPend (a : Adjacent) (v : Option Byte) : Adjacent := { a with pend := v }

/-- `enable_pin <- v` (rule R134). -/
def Adjacent.setEnablePin (a : Adjacent) (v : Bit) : Adjacent := { a with enablePin := v }

/-- `respond v` (rules R9, R118). -/
def Output.respond (v : Response) : Output := { Output.silent with response := some v }

/-- The value of a pure internal action. -/
def Output.give (v : ActionResult) : Output := { Output.silent with result := some v }

/-- The echo of a command-stream byte (rule R117). -/
def Output.echoing (o : Output) (x : Byte) : Output := { o with echo := some x }

/-- How every operation ends: with its registers, its adjacent state and its output; the configuration and the events
still to arrive are no operation's to write. -/
def State.finish (s : State) (k : CoreRegs s.cfg) (a : Adjacent) (o : Output) : State where
  cfg := s.cfg
  core := k
  adj := a
  out := o
  inbox := s.inbox

/-- An operation that writes CORE's registers and answers nothing. -/
def State.withCore (s : State) (k : CoreRegs s.cfg) : State := s.finish k s.adj Output.silent

/-- An operation that writes the adjacent state and answers nothing. -/
def State.withAdj (s : State) (a : Adjacent) : State := s.finish s.core a Output.silent

/-- An operation that writes nothing and answers the host (rule R118: a response never changes state). -/
def State.answer (s : State) (v : Response) : State := s.finish s.core s.adj (Output.respond v)

/-- The next event and the state once it has been taken from the inbox (rules R38, R174); none when CORE is idle. -/
def State.fetch (s : State) : Option (Event × State) :=
  match s.inbox with
  | [] => none
  | e :: rest => some (e, { s with inbox := rest })

end Sys2Proof.Machine
end

