-- ==== Sys2Proof/Machine/Auxiliary.lean ====
section
/-! DEFINITION. The adjacent auxiliary monitor (rules R130 to R135): RS, R6, S6, U6 and TICK. None touches CORE's state. -/

namespace Sys2Proof.Machine

/-- RS: the alarm flag of the last TICK (rule R130). -/
def execRs (s : State) : Result := .next (s.answer (.hex 1 s.adj.auxAlarm))

/-- R6: the enable-output flag (rule R131). -/
def execR6 (s : State) : Result := .next (s.answer (.hex 1 s.adj.auxEnable))

/-- S6: set the enable-output flag; the pin follows at the next TICK (rule R132). -/
def execS6 (s : State) : Result := .next (s.withAdj (s.adj.setAuxEnable 1))

/-- U6: clear the enable-output flag (rule R133). -/
def execU6 (s : State) : Result := .next (s.withAdj (s.adj.setAuxEnable 0))

/-- TICK: sample the alarm line, drive the enable pin with the flag (rule R134). -/
def execTick (alarmIn : Bit) (s : State) : Result :=
  .next (s.withAdj ((s.adj.setAuxAlarm alarmIn).setEnablePin s.adj.auxEnable))

end Sys2Proof.Machine
end

