-- ==== Sys2Proof/Machine/OverlayEngine.lean ====
section
/-! DEFINITION. The matrix overlay engine (rules R80 to R89): ROWSEL, OVMUX, DRIVE, CONSUME, ENGINE, and DRVMODE. -/

namespace Sys2Proof.Machine

/-- OVMUX(r, p, o): row `r`'s slice of the effective value (rule R82). -/
def ovmux (c : Config) (r : Row) (p o : BitVec c.ovW) : BitVec 2 := sliceOf c r (p ||| o)

/-- DRIVE(s): replace the two matrix lines, preserve the other bits of the port (rule R83). -/
def CoreRegs.drive {c : Config} (k : CoreRegs c) (s : BitVec 2) : CoreRegs c :=
  k.setPout ((k.pout &&& ~~~lineMask c) ||| linePattern c s)

/-- CONSUME(r): clear the one-shot bits of row `r` (rule R84). -/
def CoreRegs.consume {c : Config} (k : CoreRegs c) (r : Row) : CoreRegs c :=
  k.setOneshot (k.oneshot &&& ~~~rowMask c r)

/-- ENGINE: the slice is taken before the one-shot bits are cleared (rule R80). -/
def CoreRegs.engine {c : Config} (k : CoreRegs c) : CoreRegs c :=
  let r := rowOf k.frame
  let s := ovmux c r k.persist k.oneshot
  (k.drive s).consume r

/-- The clearing reading's first statement of BYTE: both matrix lines to 0 (rule R73). -/
def CoreRegs.clearLines {c : Config} (k : CoreRegs c) : CoreRegs c :=
  k.setPout (k.pout &&& ~~~lineMask c)

/-- ENGINE as an operation of its own (rule R80). -/
def execEngine (s : State) : Result := .next (s.withCore s.core.engine)

/-- ROWSEL f: pure; gives the active row of `f` (rule R81). -/
def execRowsel (f : Frame) (s : State) : Result :=
  .next (s.finish s.core s.adj (Output.give (.row (rowOf f))))

/-- OVMUX r p o: pure; gives the slice (rule R82). -/
def execOvmux (r : Row) (p o : Nat) (s : State) : Result :=
  .next (s.finish s.core s.adj
    (Output.give (.slice (ovmux s.cfg r (overlayOfMask s.cfg p) (overlayOfMask s.cfg o)))))

/-- DRIVE v (rule R83). -/
def execDrive (v : BitVec 2) (s : State) : Result := .next (s.withCore (s.core.drive v))

/-- CONSUME r (rule R84). -/
def execConsume (r : Row) (s : State) : Result := .next (s.withCore (s.core.consume r))

/-- DRVMODE v: `drive_en <- v`, nothing else (rule R88). -/
def execDrvmode (v : Bit) (s : State) : Result := .next (s.withCore (s.core.setDriveEn v))

end Sys2Proof.Machine
end

