-- ==== Sys2Proof/Machine/OverlayStore.lean ====
section
/-! DEFINITION. The switch overlay store, the store level of the host port (rules R95 to R101). -/

namespace Sys2Proof.Machine

/-- SETP m (rule R95). -/
def execSetp (m : Nat) (s : State) : Result :=
  .next (s.withCore (s.core.setPersistBits (overlayOfMask s.cfg m)))

/-- CLRP m (rule R96). -/
def execClrp (m : Nat) (s : State) : Result :=
  .next (s.withCore (s.core.clearPersistBits (overlayOfMask s.cfg m)))

/-- ARM m (rule R97). -/
def execArm (m : Nat) (s : State) : Result :=
  .next (s.withCore (s.core.armBits (overlayOfMask s.cfg m)))

/-- RDP: responds `persist`; one-shot bits never show (rule R98). -/
def execRdp (s : State) : Result := .next (s.answer (.hex s.cfg.ovW s.core.persist))

/-- RDCH m: responds one channel's persistent bit (rule R99). -/
def execRdch (m : Nat) (s : State) : Result :=
  .next (s.answer (s.core.channelResponse (overlayOfMask s.cfg m)))

/-- RDF: responds the 16 bits of the last completed frame (rule R100). -/
def execRdf (s : State) : Result := .next (s.answer (.hex 16 s.core.frame))

end Sys2Proof.Machine
end

