-- ==== Sys2Proof/Machine/CommandPort.lean ====
section
/-! DEFINITION. The command level of the host port (rules R105 to R118): the two-byte requests, the two fallbacks, DISPATCH's
table of handlers, and the framing of the command stream, CHAR. -/

namespace Sys2Proof.Machine

/-- `do RDCH CH_MASK[n]` (rule R109). -/
def readChannel (n : Channel) (s : State) : State := s.answer (s.core.channelResponse (chMask s.cfg n))

/-- `do SETP CH_MASK[n]` (rule R110). -/
def setChannel (n : Channel) (s : State) : State := s.withCore (s.core.setPersistBits (chMask s.cfg n))

/-- `do CLRP CH_MASK[n]` (rule R111). -/
def clearChannel (n : Channel) (s : State) : State := s.withCore (s.core.clearPersistBits (chMask s.cfg n))

/-- `do ARM CH_MASK[n]` (rule R112). -/
def armChannel (n : Channel) (s : State) : State := s.withCore (s.core.armBits (chMask s.cfg n))

/-- RA: read raw frame (rule R107). -/
def execRa (s : State) : Result := .next (s.answer (.hex 16 s.core.frame))

/-- RW: read persistent overlay bits (rule R108). -/
def execRw (s : State) : Result := .next (s.answer (.hex s.cfg.ovW s.core.persist))

/-- R1: read channel 1's persistent bit (rule R109). -/
def execR1 (s : State) : Result := .next (readChannel .ch1 s)

/-- R2: read channel 2's persistent bit (rule R109). -/
def execR2 (s : State) : Result := .next (readChannel .ch2 s)

/-- R3: read channel 3's persistent bit (rule R109). -/
def execR3 (s : State) : Result := .next (readChannel .ch3 s)

/-- R4: read channel 4's persistent bit (rule R109). -/
def execR4 (s : State) : Result := .next (readChannel .ch4 s)

/-- R5: read channel 5's persistent bit (rule R109). -/
def execR5 (s : State) : Result := .next (readChannel .ch5 s)

/-- S1: set channel 1's persistent bit (rule R110). -/
def execS1 (s : State) : Result := .next (setChannel .ch1 s)

/-- S2: set channel 2's persistent bit (rule R110). -/
def execS2 (s : State) : Result := .next (setChannel .ch2 s)

/-- S3: set channel 3's persistent bit (rule R110). -/
def execS3 (s : State) : Result := .next (setChannel .ch3 s)

/-- S4: set channel 4's persistent bit (rule R110). -/
def execS4 (s : State) : Result := .next (setChannel .ch4 s)

/-- S5: set channel 5's persistent bit (rule R110). -/
def execS5 (s : State) : Result := .next (setChannel .ch5 s)

/-- U1: clear channel 1's persistent bit (rule R111). -/
def execU1 (s : State) : Result := .next (clearChannel .ch1 s)

/-- U2: clear channel 2's persistent bit (rule R111). -/
def execU2 (s : State) : Result := .next (clearChannel .ch2 s)

/-- U3: clear channel 3's persistent bit (rule R111). -/
def execU3 (s : State) : Result := .next (clearChannel .ch3 s)

/-- U4: clear channel 4's persistent bit (rule R111). -/
def execU4 (s : State) : Result := .next (clearChannel .ch4 s)

/-- U5: clear channel 5's persistent bit (rule R111). -/
def execU5 (s : State) : Result := .next (clearChannel .ch5 s)

/-- P1: arm channel 1's one-shot bit (rule R112). -/
def execP1 (s : State) : Result := .next (armChannel .ch1 s)

/-- P2: arm channel 2's one-shot bit (rule R112). -/
def execP2 (s : State) : Result := .next (armChannel .ch2 s)

/-- P3: arm channel 3's one-shot bit (rule R112). -/
def execP3 (s : State) : Result := .next (armChannel .ch3 s)

/-- P4: arm channel 4's one-shot bit (rule R112). -/
def execP4 (s : State) : Result := .next (armChannel .ch4 s)

/-- P5: arm channel 5's one-shot bit (rule R112). -/
def execP5 (s : State) : Result := .next (armChannel .ch5 s)

/-- EN: pins to driven mode, with a text message (rule R113). -/
def execEn (s : State) : Result := .next (s.finish (s.core.setDriveEn 1) s.adj (Output.respond .textDriven))

/-- DS: pins to sensed mode, with a text message (rule R114). -/
def execDs (s : State) : Result := .next (s.finish (s.core.setDriveEn 0) s.adj (Output.respond .textSensed))

/-- UNHANDLED: a known letter with an unlisted target; state unchanged (rule R115). -/
def execUnhandled (_c _t : Byte) (s : State) : Result := .next (s.answer .textUnhandled)

/-- UNKNOWN: no command letter; state unchanged (rule R116). -/
def execUnknown (_c _t : Byte) (s : State) : Result := .next (s.answer .textUnknown)

/-- DISPATCH's table of handlers, one for each request of rule R60 (rule R106, corner case (d)). -/
def handlers : List (BitVec 16 × (State → Result)) :=
  [(0x5241, execRa), (0x5257, execRw), (0x5253, execRs),
   (0x5231, execR1), (0x5232, execR2), (0x5233, execR3), (0x5234, execR4), (0x5235, execR5), (0x5236, execR6),
   (0x5331, execS1), (0x5332, execS2), (0x5333, execS3), (0x5334, execS4), (0x5335, execS5), (0x5336, execS6),
   (0x5531, execU1), (0x5532, execU2), (0x5533, execU3), (0x5534, execU4), (0x5535, execU5), (0x5536, execU6),
   (0x5031, execP1), (0x5032, execP2), (0x5033, execP3), (0x5034, execP4), (0x5035, execP5),
   (0x454E, execEn), (0x4453, execDs)]

/-- DISPATCH(c, t): decode one request and run it (rule R106). -/
def dispatch (c t : Byte) (s : State) : Result :=
  if isCommandLetter c then
    match handlers.lookup (requestWord c t) with
    | some run => run s
    | none => execUnhandled c t s
  else execUnknown c t s

/-- What CHAR does after DISPATCH: `pend <- none`, with the byte's echo (rules R105, R117). -/
def endRequest (x : Byte) : Result → Result
  | .next t => .next (t.finish t.core (t.adj.setPend none) (t.out.echoing x))
  | .fault f => .fault f
  | .refused r => .refused r

/-- CHAR x: a terminator is skipped, or drops a pending byte under TERM_CLEARS_PENDING; the first other byte is the
command, the next its target (rule R105). Every byte is echoed (rule R117). -/
def execChar (x : Byte) (s : State) : Result :=
  if isTerminator x then
    .next (s.finish s.core (if s.cfg.termClearsPending then s.adj.setPend none else s.adj) (Output.silent.echoing x))
  else
    match s.adj.pend with
    | none => .next (s.finish s.core (s.adj.setPend (some x)) (Output.silent.echoing x))
    | some c => endRequest x (dispatch c x s)

end Sys2Proof.Machine
end

