-- ==== Sys2Proof/Machine/FrameDecoder.lean ====
section
/-! DEFINITION. The shift-register frame decoder (rules R70 to R75): BYTE, COMPLETE and the bit layer's BIT. -/

namespace Sys2Proof.Machine

/-- COMPLETE: the frame is assembled, then the engine runs on it (rule R71). -/
def CoreRegs.complete {c : Config} (k : CoreRegs c) : CoreRegs c :=
  (k.setFrame (frameOf (k.readBuf 0) (k.readBuf 1))).engine

/-- BYTE d: clear the lines under CLEAR_ON_BYTE, store at the phase, toggle it, complete the frame when it is 0 again
(rules R70, R73). -/
def CoreRegs.receiveByte {c : Config} (k : CoreRegs c) (d : Byte) : CoreRegs c :=
  let cleared := if c.clearOnByte then k.clearLines else k
  let stored := cleared.writeBuf cleared.phase d
  let toggled := stored.setPhase (phaseNext stored.phase)
  if completesFrame toggled.phase then toggled.complete else toggled

/-- BIT b: shift the bit in, count it, hand a complete byte to BYTE (rule R72). -/
def CoreRegs.receiveBit {c : Config} (k : CoreRegs c) (b : Bit) : CoreRegs c :=
  let shifted := k.setSr (shiftIn c.msbFirst k.sr b)
  let counted := shifted.setBitcnt (bitcntNext shifted.bitcnt)
  if completesByte counted.bitcnt then counted.receiveByte counted.sr else counted

/-- BYTE d (rule R70). -/
def execByte (d : Byte) (s : State) : Result := .next (s.withCore (s.core.receiveByte d))

/-- BIT b (rule R72). -/
def execBit (b : Bit) (s : State) : Result := .next (s.withCore (s.core.receiveBit b))

/-- COMPLETE as an operation of its own (rule R71). -/
def execComplete (s : State) : Result := .next (s.withCore s.core.complete)

end Sys2Proof.Machine
end

