-- ==== Sys2Proof/Machine/ResetUnit.lean ====
section
/-! DEFINITION. RESET, the one kind of reset (rule R160). -/

namespace Sys2Proof.Machine

/-- RESET: every register takes the value of rule R27; the configuration and the events still to arrive stay (log entry 16). -/
def execReset (s : State) : Result := .next (s.finish (coreReset s.cfg) adjacentReset Output.silent)

end Sys2Proof.Machine
end

