-- ==== Sys2Proof/Machine/ResyncMonitor.lean ====
section
/-! DEFINITION. The resync edge detector (rules R90 to R93): FV and RESYNC. -/

namespace Sys2Proof.Machine

/-- RESYNC: a phase of 1 is forced to 0 (rule R91). -/
def CoreRegs.resync {c : Config} (k : CoreRegs c) : CoreRegs c :=
  if k.phase = 1 then k.setPhase 0 else k

/-- FV l: resynchronise on a transition of either polarity, then remember the level (rule R90). -/
def CoreRegs.observeFv {c : Config} (k : CoreRegs c) (l : Bit) : CoreRegs c :=
  (if isTransition l k.fvQ then k.resync else k).setFvQ l

/-- FV l (rule R90). -/
def execFv (l : Bit) (s : State) : Result := .next (s.withCore (s.core.observeFv l))

/-- RESYNC as an operation of its own (rule R91). -/
def execResync (s : State) : Result := .next (s.withCore s.core.resync)

end Sys2Proof.Machine
end

