-- ==== Sys2Proof/Machine/Dispatch.lean ====
section
/-! DEFINITION. One arm per operation of the table, each one direct call of its meaning. -/

namespace Sys2Proof.Machine

def exec (i : Instr) (s : State) : Host.Outcome State Fault Refusal :=
  match i with
  | .ra => Sys2Proof.Machine.execRa s
  | .rw => Sys2Proof.Machine.execRw s
  | .rs => Sys2Proof.Machine.execRs s
  | .r1 => Sys2Proof.Machine.execR1 s
  | .r2 => Sys2Proof.Machine.execR2 s
  | .r3 => Sys2Proof.Machine.execR3 s
  | .r4 => Sys2Proof.Machine.execR4 s
  | .r5 => Sys2Proof.Machine.execR5 s
  | .r6 => Sys2Proof.Machine.execR6 s
  | .s1 => Sys2Proof.Machine.execS1 s
  | .s2 => Sys2Proof.Machine.execS2 s
  | .s3 => Sys2Proof.Machine.execS3 s
  | .s4 => Sys2Proof.Machine.execS4 s
  | .s5 => Sys2Proof.Machine.execS5 s
  | .s6 => Sys2Proof.Machine.execS6 s
  | .u1 => Sys2Proof.Machine.execU1 s
  | .u2 => Sys2Proof.Machine.execU2 s
  | .u3 => Sys2Proof.Machine.execU3 s
  | .u4 => Sys2Proof.Machine.execU4 s
  | .u5 => Sys2Proof.Machine.execU5 s
  | .u6 => Sys2Proof.Machine.execU6 s
  | .p1 => Sys2Proof.Machine.execP1 s
  | .p2 => Sys2Proof.Machine.execP2 s
  | .p3 => Sys2Proof.Machine.execP3 s
  | .p4 => Sys2Proof.Machine.execP4 s
  | .p5 => Sys2Proof.Machine.execP5 s
  | .en => Sys2Proof.Machine.execEn s
  | .ds => Sys2Proof.Machine.execDs s
  | .unhandled c t => Sys2Proof.Machine.execUnhandled c t s
  | .unknown c t => Sys2Proof.Machine.execUnknown c t s
  | .byte d => Sys2Proof.Machine.execByte d s
  | .bit b => Sys2Proof.Machine.execBit b s
  | .fv l => Sys2Proof.Machine.execFv l s
  | .tick a => Sys2Proof.Machine.execTick a s
  | .reset => Sys2Proof.Machine.execReset s
  | .setp m => Sys2Proof.Machine.execSetp m s
  | .clrp m => Sys2Proof.Machine.execClrp m s
  | .arm m => Sys2Proof.Machine.execArm m s
  | .rdp => Sys2Proof.Machine.execRdp s
  | .rdch m => Sys2Proof.Machine.execRdch m s
  | .rdf => Sys2Proof.Machine.execRdf s
  | .drvmode v => Sys2Proof.Machine.execDrvmode v s
  | .complete => Sys2Proof.Machine.execComplete s
  | .engine => Sys2Proof.Machine.execEngine s
  | .rowsel f => Sys2Proof.Machine.execRowsel f s
  | .ovmux r p o => Sys2Proof.Machine.execOvmux r p o s
  | .drive v => Sys2Proof.Machine.execDrive v s
  | .consume r => Sys2Proof.Machine.execConsume r s
  | .resync => Sys2Proof.Machine.execResync s
  | .char x => Sys2Proof.Machine.execChar x s

end Sys2Proof.Machine
end

