-- ==== Sys2Proof/Machine/Step.lean ====
section
/-! DEFINITION. One step of the machine: the next event of the inbox takes effect as one atomic operation (rules R35, R38);
with no event waiting the machine idles (log entry 2). -/

namespace Sys2Proof.Machine

/-- Take the next event, decode it, run its operation. -/
def step (s : State) : Host.Outcome State Fault Refusal :=
  match s.fetch with
  | none => .next s
  | some (e, t) => exec (decode s.cfg e) t

/-- The state with the event of a table word first in the inbox, so that the very next step runs it (log entries 2 and 9). -/
def State.withFetchWord (s : State) (nbits w : Nat) : State :=
  match tableEvent nbits w with
  | some e => { s with inbox := e :: s.inbox }
  | none => s

end Sys2Proof.Machine
end

