-- ==== Sys2Proof/Machine/Observe.lean ====
section
/-! DEFINITION. What is seen of the machine: the pins (rules R22, R87), runs and their observation (rule R174), the exact texts
of the fallback responses (rule R118). -/

namespace Sys2Proof.Machine

/-- The pair `(mline_oe, mline_val[1:0])`: output enable and the two latched lines (rule R22; log entry 14). -/
def pins (s : State) : Bit × BitVec 2 := (s.core.driveEn, linesOf s.cfg s.core.pout)

/-- One entry of an observation: the pins after an operation, and its response, if any (rule R174). -/
abbrev Observation := (Bit × BitVec 2) × Option Response

/-- The observation of the operation that led to `s` (rule R174). -/
def observe (s : State) : Observation := (pins s, s.out.response)

/-- The event of a reset (rule R160). -/
def resetEvent : Event := ⟨.resetLine, 0⟩

/-- The start of a run: a machine in whatever state `s`, with RESET to come and then a finite list of events, in the order
they take effect (rule R174). -/
def runStart (s : State) (events : List Event) : State := { s with inbox := resetEvent :: events }

/-- One step for each event of a list, from a state that has them waiting: the state where the list ends. -/
def stepThrough : List Event → State → Result
  | [], s => .next s
  | _ :: rest, s =>
    match step s with
    | .next t => stepThrough rest t
    | .fault f => .fault f
    | .refused r => .refused r

/-- The observation after each of these steps, in order. -/
def observeThrough : List Event → State → List Observation
  | [], _ => []
  | _ :: rest, s =>
    match step s with
    | .next t => observe t :: observeThrough rest t
    | .fault _ | .refused _ => []

/-- The final state of a run (rule R174: the end is wherever the list ends). -/
def finalOfRun (s : State) (events : List Event) : Result := stepThrough (resetEvent :: events) (runStart s events)

/-- The observation of a run: one entry for each operation, its RESET first (rule R174). -/
def observeRun (s : State) (events : List Event) : List Observation :=
  observeThrough (resetEvent :: events) (runStart s events)

/-- The exact wording of a response, where the source gives one (rules R115, R116, R118). -/
def wording : Response → Option String
  | .textUnhandled => some "Unhandled statement"
  | .textUnknown => some "Unknown command"
  | .hex _ _ | .textDriven | .textSensed => none

end Sys2Proof.Machine
end

