-- ==== Sys2Proof/Safety.lean ====
section
/-! DEFINITION. The terms statements are written in: what it means that an operation completes, running operations in
sequence, the invariants of rule R28, which operations arm a one-shot bit, and the relations two runs are compared by. -/

namespace Sys2Proof.Machine

/-- Operation `i` completes from `s`: exec answers a next state, under the same configuration and with the same events
still to arrive, whose CORE registers, adjacent state and output meet `P` (rules R35, R140). -/
def Completes (i : Instr) (s : State) (P : CoreRegs s.cfg → Adjacent → Output → Prop) : Prop :=
  ∃ k a o, exec i s = .next ⟨s.cfg, k, a, o, s.inbox⟩ ∧ P k a o

/-- A step takes the event `e` off an inbox `e :: rest` and answers a next state whose parts meet `P`. -/
def StepCompletes (s : State) (rest : List Event) (P : CoreRegs s.cfg → Adjacent → Output → Prop) : Prop :=
  ∃ k a o, step s = .next ⟨s.cfg, k, a, o, rest⟩ ∧ P k a o

/-- Operations one after the other, in the order they take effect (rule R38). -/
def runOps : List Instr → State → Result
  | [], s => .next s
  | i :: rest, s =>
    match exec i s with
    | .next t => runOps rest t
    | .fault f => .fault f
    | .refused r => .refused r

/-- Bit `i` of the effective overlay value (rule R21). -/
def effectiveBit {c : Config} (k : CoreRegs c) (i : Nat) : Bool := k.persist.getLsbD i || k.oneshot.getLsbD i

/-- Bit `i` of a mask, as far as it lies in the overlay registers (rule R53). -/
def maskBit (c : Config) (m : Nat) (i : Nat) : Bool := decide (i < c.ovW) && m.testBit i

/-- Invariant 4 of rule R28: the port bits that are no matrix line hold POUT_OTHER_RESET. -/
def OtherLinesKept (s : State) : Prop :=
  ∀ i, isLine s.cfg i = false → s.core.pout.getLsbD i = s.cfg.poutOtherReset.getLsbD i

/-- An event that sets no overlay bit outside the channel bits: every event but a store-level SETP or ARM whose mask has
one (rules R28, R101). -/
def channelBitsEvent (c : Config) (e : Event) : Bool :=
  match e.port with
  | .setp | .arm => decide (overlayOfMask c e.word &&& ~~~channelBits c = 0)
  | .command | .stream | .bus | .serial | .frameValid | .alarm | .resetLine | .clrp | .rdp | .rdch | .rdf | .drvmode => true

/-- Invariant 5 of rule R28: no overlay bit is set outside the channel bits, and no event still to arrive will set one. -/
def ChannelBitsOnly (s : State) : Prop :=
  s.core.persist &&& ~~~channelBits s.cfg = 0 ∧ s.core.oneshot &&& ~~~channelBits s.cfg = 0 ∧
  ∀ e ∈ s.inbox, channelBitsEvent s.cfg e = true

/-- The channel a request arms: `P n` (rule R112). -/
def armedChannel : Instr → Option Channel
  | .p1 => some .ch1
  | .p2 => some .ch2
  | .p3 => some .ch3
  | .p4 => some .ch4
  | .p5 => some .ch5
  | .ra | .rw | .rs | .r1 | .r2 | .r3 | .r4 | .r5 | .r6 | .s1 | .s2 | .s3 | .s4 | .s5 | .s6
  | .u1 | .u2 | .u3 | .u4 | .u5 | .u6 | .en | .ds | .unhandled _ _ | .unknown _ _
  | .byte _ | .bit _ | .fv _ | .tick _ | .reset | .setp _ | .clrp _ | .arm _ | .rdp | .rdch _ | .rdf | .drvmode _
  | .complete | .engine | .rowsel _ | .ovmux _ _ _ | .drive _ | .consume _ | .resync | .char _ => none

/-- The request arms overlay bit `i`. -/
def requestArms (c : Config) (r : Instr) (i : Nat) : Bool :=
  match armedChannel r with
  | some n => decide (chBit c n = i)
  | none => false

/-- Event `e`, arriving with `pend` as the pending command byte, arms one-shot bit `i`: an ARM whose mask names it, a
request `P n` of its channel, or the byte that completes such a request (rules R97, R105, R112). -/
def armsBit (c : Config) (pend : Option Byte) (e : Event) (i : Nat) : Bool :=
  match e.port with
  | .arm => maskBit c e.word i
  | .command => requestArms c (decode c e) i
  | .stream =>
    match pend with
    | some l => requestArms c (decodeCommand l (BitVec.ofNat 8 e.word)) i
    | none => false
  | .bus | .serial | .frameValid | .alarm | .resetLine | .setp | .clrp | .rdp | .rdch | .rdf | .drvmode => false

/-- How many frames a series of bytes completes: one for each byte that arrives at phase 1 (rules R71, R75). -/
def completions {c : Config} : List Byte → CoreRegs c → Nat
  | [], _ => 0
  | d :: ds, k => (if k.phase = 1 then 1 else 0) + completions ds (k.receiveByte d)

/-- Two register files that agree but for stored bytes a later BYTE will overwrite before they are read: both entries at
phase 0, `buf[1]` at phase 1 (rule R11). -/
def SameButStaleBytes {c : Config} (k k' : CoreRegs c) : Prop :=
  k' = { k with buf0 := k'.buf0, buf1 := k'.buf1 } ∧ (k.phase = 1 → k'.buf0 = k.buf0)

end Sys2Proof.Machine
end

