-- ==== Sys2Proof/Certificates/Slice0/Obligations.lean ====
section
/-! DEFINITION. The statements about CORE, from the numbered rules of spec/. Registers are compared field by field through
record updates: `k = { s.core with persist := k.persist }` says that nothing but `persist` changed. -/

open Sys2Proof Sys2Proof.Machine

/-! ### Encoding -/

/-- A few words written out from rule R60's map and rule R61's fallbacks decode to their operations. That a table word of 16
bits is read as a request and one of 8 bits as a bus byte, though other rows have 8 bits too, and that the reference
configuration is taken, is the model's choice (log entry 9, DESIGN CHOICE). -/
def Obligations.TableWordsDecodeToTheirOperations : Prop :=
  decodeTableWord 16 0b0101001001000001 = some .ra ∧
  decodeTableWord 16 0b0101001001010111 = some .rw ∧
  decodeTableWord 16 0b0101001001010011 = some .rs ∧
  decodeTableWord 16 0b0101001000110011 = some .r3 ∧
  decodeTableWord 16 0b0101001100110100 = some .s4 ∧
  decodeTableWord 16 0b0101010100110001 = some .u1 ∧
  decodeTableWord 16 0b0101000000110101 = some .p5 ∧
  decodeTableWord 16 0b0100010101001110 = some .en ∧
  decodeTableWord 16 0b0100010001010011 = some .ds ∧
  decodeTableWord 16 0b0101000000110110 = some (.unhandled 0x50 0x36) ∧
  decodeTableWord 16 0b0101100000110001 = some (.unknown 0x58 0x31) ∧
  decodeTableWord 8 0b10000000 = some (.byte 0x80)

/-- Rule R106: every request has exactly one outcome, and which one is decided by the command letter first, then by the
listed targets of rule R60. -/
def Obligations.EveryRequestHasOneOutcome : Prop :=
  ∀ c t : Byte,
    (isUnknownRequest c = true → decodeCommand c t = .unknown c t) ∧
    (isUnhandledRequest c t = true → decodeCommand c t = .unhandled c t) ∧
    (isUnknownRequest c = false → isUnhandledRequest c t = false →
      ∃ i, (requestWord c t, i) ∈ commandTable ∧ decodeCommand c t = i ∧
        encode i = some ⟨.command, (requestWord c t).toNat⟩)

/-- Rule R106, corner case (c): of the 65536 request words 28 are commands, 1508 are UNHANDLED, 64000 are UNKNOWN. -/
def Obligations.RequestWordCounts : Prop :=
  let bytes := (List.range 256).map (BitVec.ofNat 8)
  let count := fun (p : Byte → Byte → Bool) => (bytes.map fun c => bytes.countP (p c)).sum
  count (fun c t => decide (decodeCommand c t = .unknown c t)) = 64000 ∧
  count (fun c t => decide (decodeCommand c t = .unhandled c t)) = 1508 ∧
  count (fun c t => decide (decodeCommand c t ≠ .unknown c t ∧ decodeCommand c t ≠ .unhandled c t)) = 28

/-- Every well-formed operation that a port can cause is what its encoding decodes to, operands and all.
That an event is a port and a number is the model's form (log entry 5). -/
def Obligations.EncodedOperationDecodesBack : Prop :=
  ∀ (c : Config) (i : Instr) (e : Event), i.wf c = true → encode i = some e → decode c e = i

/-- The other direction: a word no wider than its port is the encoding of the operation it decodes to
(events: the model's form, log entry 5). -/
def Obligations.DecodedEventEncodesBack : Prop :=
  ∀ (c : Config) (e : Event), e.word < 2 ^ portWidth c e.port → encode (decode c e) = some e

/-- The decoder gives well-formed operations only, and never an internal action (rule R71: no port can cause one). -/
def Obligations.DecodedOperationIsWellFormed : Prop :=
  ∀ (c : Config) (e : Event), (decode c e).wf c = true ∧ (encode (decode c e)).isSome = true

/-! ### The step -/

/-- A step runs the operation that the next event decodes to, with that event taken off the inbox; with no event it idles.
The inbox and the idle step are the model's (log entries 1, 2). -/
def Obligations.StepRunsTheDecodedEvent : Prop :=
  (∀ (s : State) (e : Event) (rest : List Event), s.inbox = e :: rest →
    step s = exec (decode s.cfg e) { s with inbox := rest }) ∧
  (∀ s : State, s.inbox = [] → step s = .next s)

/-- Rule R140: no operation faults, halts or is refused; each is total, and so is the step. -/
def Obligations.NothingFaultsOrIsRefused : Prop :=
  (∀ (i : Instr) (s : State), ∃ t, exec i s = .next t) ∧ (∀ s : State, ∃ t, step s = .next t)

/-- No operation writes the configuration, and none touches the events still to arrive (both fields are the model's: log
entries 1, 3). -/
def Obligations.ConfigurationIsNeverWritten : Prop :=
  (∀ (i : Instr) (s t : State), exec i s = .next t → t.cfg = s.cfg ∧ t.inbox = s.inbox) ∧
  (∀ s t : State, step s = .next t → t.cfg = s.cfg ∧ t.inbox = s.inbox.tail)

/-! ### Reset -/

/-- Rules R160 and R27: from any state RESET gives every register of R10 and R26 the value of R27's table. R27 says of that
table: "Every value below is this spec's own choice" (log entry 17); no claim on the enable pin (log entry 8). -/
def Obligations.ResetSetsEveryRegister : Prop :=
  ∀ s : State, Completes .reset s fun k a _ =>
    k.buf0 = 0x00 ∧ k.buf1 = 0x00 ∧ k.phase = 0 ∧ k.frame = 0x0000 ∧ k.persist = 0 ∧ k.oneshot = 0 ∧
    (∀ i < s.cfg.portW, k.pout.getLsbD i =
      if isLine s.cfg i then false else s.cfg.poutOtherReset.getLsbD i) ∧
    k.driveEn = s.cfg.driveEnReset ∧ k.fvQ = s.cfg.fvIdle ∧ k.sr = 0x00 ∧ k.bitcnt = 0 ∧
    a.auxEnable = 0 ∧ a.auxAlarm = 0 ∧ a.pend = none

/-- The state after reset is what RESET gives from any idle state, and it meets the invariants `OtherLinesKept` and
`ChannelBitsOnly`. The values are the spec's own choice (rule R27, log entry 17). The model's choices: the enable pin goes
back to 0 with them, which rule R27 does not say (log entry 8, DESIGN CHOICE), what was given out is cleared, and the
configuration and the inbox are kept (log entry 16, DESIGN CHOICE). -/
def Obligations.ResetStateMeetsTheInvariants : Prop :=
  ∀ c : Config, OtherLinesKept (State.resetOf c) ∧ ChannelBitsOnly (State.resetOf c) ∧
    (∀ s : State, s.cfg = c → s.inbox = [] → exec .reset s = .next (State.resetOf c))

/-! ### Host reads -/

/-- Rules R100 and R107: RDF and RA respond the 16 bits of the last completed frame and change nothing; a half-received
pair does not show; right after reset the frame reads 0x0000
(rule R27's own choice, D21, log entry 17). -/
def Obligations.FrameReadsReturnTheLastFrame : Prop :=
  (∀ s : State, ∀ i ∈ [Instr.rdf, .ra], Completes i s fun k a o =>
    k = s.core ∧ a = s.adj ∧ o.response = some (.hex 16 s.core.frame)) ∧
  (∀ (s : State) (d : Byte), s.core.phase = 0 → ∀ t, exec (.byte d) s = .next t → ∀ i ∈ [Instr.rdf, .ra],
    Completes i t fun _ _ o => o.response = some (.hex 16 s.core.frame)) ∧
  (∀ c : Config, ∀ i ∈ [Instr.rdf, .ra], Completes i (State.resetOf c) fun _ _ o =>
    o.response = some (.hex 16 0x0000))

/-- Rules R98 and R108: RDP and RW respond `persist` in OV_W bits, whatever is armed, and change nothing. -/
def Obligations.PersistentReadsReturnPersist : Prop :=
  ∀ s : State, ∀ p ∈ [((⟨.rdp, 0⟩ : Event), Instr.rdp), (⟨.command, 0x5257⟩, .rw)],
    decode s.cfg p.1 = p.2 ∧ Completes p.2 s fun k a o =>
      k = s.core ∧ a = s.adj ∧ o.response = some (.hex s.cfg.ovW s.core.persist)

/-- Rule R109: `R n` responds channel `n`'s persistent bit, as 0 or 1 under RDCH_NORMALISED and in place otherwise (the
spec's own parameter, D17; log entry 11), and changes nothing. -/
def Obligations.ChannelReadsReturnThePersistentBit : Prop :=
  ∀ s : State, ∀ p ∈ [(0x5231, Instr.r1, Channel.ch1), (0x5232, .r2, .ch2), (0x5233, .r3, .ch3),
      (0x5234, .r4, .ch4), (0x5235, .r5, .ch5)],
    decode s.cfg ⟨.command, p.1⟩ = p.2.1 ∧ Completes p.2.1 s fun k a o => k = s.core ∧ a = s.adj ∧
      (s.cfg.rdchNormalised = true →
        o.response = some (.hex 1 (BitVec.ofBool (s.core.persist.getLsbD (chBit s.cfg p.2.2))))) ∧
      (s.cfg.rdchNormalised = false → ∃ v : BitVec s.cfg.ovW, o.response = some (.hex s.cfg.ovW v) ∧
        ∀ i, v.getLsbD i = (s.core.persist.getLsbD i && decide (i = chBit s.cfg p.2.2)))

/-- Rule R99: RDCH m responds the persistent bits under the mask: their truth value under RDCH_NORMALISED, the bits in place
otherwise (the spec's own parameter, D17; log entry 11); the response is not zero exactly when some masked bit is set. -/
def Obligations.MaskedReadIsNonZeroWhenABitIsSet : Prop :=
  ∀ (s : State) (m : Nat), Completes (.rdch m) s fun k a o => k = s.core ∧ a = s.adj ∧
    ∃ (w : Nat) (v : BitVec w), o.response = some (.hex w v) ∧
      (v ≠ 0 ↔ ∃ i, s.core.persist.getLsbD i = true ∧ m.testBit i = true) ∧
      (s.cfg.rdchNormalised = true → w = 1) ∧
      (s.cfg.rdchNormalised = false → w = s.cfg.ovW ∧
        ∀ i, v.getLsbD i = (s.core.persist.getLsbD i && m.testBit i))

/-! ### The overlay store -/

/-- Rule R95: SETP m sets the bits of `persist` that the mask names, touches nothing else, and twice is as once. -/
def Obligations.SetMaskSetsPersistentBits : Prop :=
  ∀ (s : State) (m : Nat),
    (Completes (.setp m) s fun k a o =>
      (∀ i, k.persist.getLsbD i = (s.core.persist.getLsbD i || maskBit s.cfg m i)) ∧
      k = { s.core with persist := k.persist } ∧ a = s.adj ∧ o.response = none) ∧
    (∀ t, exec (.setp m) s = .next t → exec (.setp m) t = .next t)

/-- Rule R96: CLRP m clears the bits of `persist` that the mask names, touches nothing else, and twice is as once. -/
def Obligations.ClearMaskClearsPersistentBits : Prop :=
  ∀ (s : State) (m : Nat),
    (Completes (.clrp m) s fun k a o =>
      (∀ i, k.persist.getLsbD i = (s.core.persist.getLsbD i && !maskBit s.cfg m i)) ∧
      k = { s.core with persist := k.persist } ∧ a = s.adj ∧ o.response = none) ∧
    (∀ t, exec (.clrp m) s = .next t → exec (.clrp m) t = .next t)

/-- Rule R97: ARM m sets the bits of `oneshot` that the mask names, touches nothing else, and twice is as once. -/
def Obligations.ArmMaskSetsOneShotBits : Prop :=
  ∀ (s : State) (m : Nat),
    (Completes (.arm m) s fun k a o =>
      (∀ i, k.oneshot.getLsbD i = (s.core.oneshot.getLsbD i || maskBit s.cfg m i)) ∧
      k = { s.core with oneshot := k.oneshot } ∧ a = s.adj ∧ o.response = none) ∧
    (∀ t, exec (.arm m) s = .next t → exec (.arm m) t = .next t)

/-- Rule R110: `S n` sets persistent bit CH_BIT[n] and no other bit of the machine, with no response. -/
def Obligations.SetCommandsSetOneChannel : Prop :=
  ∀ s : State, ∀ p ∈ [(0x5331, Instr.s1, Channel.ch1), (0x5332, .s2, .ch2), (0x5333, .s3, .ch3),
      (0x5334, .s4, .ch4), (0x5335, .s5, .ch5)],
    decode s.cfg ⟨.command, p.1⟩ = p.2.1 ∧ Completes p.2.1 s fun k a o =>
      (∀ i < s.cfg.ovW, k.persist.getLsbD i = if i = chBit s.cfg p.2.2 then true else s.core.persist.getLsbD i) ∧
      k = { s.core with persist := k.persist } ∧ a = s.adj ∧ o.response = none

/-- Rule R111: `U n` clears persistent bit CH_BIT[n] and no other bit of the machine; a one-shot bit stays armed. -/
def Obligations.ClearCommandsClearOneChannel : Prop :=
  ∀ s : State, ∀ p ∈ [(0x5531, Instr.u1, Channel.ch1), (0x5532, .u2, .ch2), (0x5533, .u3, .ch3),
      (0x5534, .u4, .ch4), (0x5535, .u5, .ch5)],
    decode s.cfg ⟨.command, p.1⟩ = p.2.1 ∧ Completes p.2.1 s fun k a o =>
      (∀ i < s.cfg.ovW, k.persist.getLsbD i = if i = chBit s.cfg p.2.2 then false else s.core.persist.getLsbD i) ∧
      k = { s.core with persist := k.persist } ∧ a = s.adj ∧ o.response = none

/-- Rule R112: `P n` arms one-shot bit CH_BIT[n] and no other bit of the machine, with no response. -/
def Obligations.ArmCommandsArmOneChannel : Prop :=
  ∀ s : State, ∀ p ∈ [(0x5031, Instr.p1, Channel.ch1), (0x5032, .p2, .ch2), (0x5033, .p3, .ch3),
      (0x5034, .p4, .ch4), (0x5035, .p5, .ch5)],
    decode s.cfg ⟨.command, p.1⟩ = p.2.1 ∧ Completes p.2.1 s fun k a o =>
      (∀ i < s.cfg.ovW, k.oneshot.getLsbD i = if i = chBit s.cfg p.2.2 then true else s.core.oneshot.getLsbD i) ∧
      k = { s.core with oneshot := k.oneshot } ∧ a = s.adj ∧ o.response = none

/-- The source's own example (95_test_vectors.md, S5), for every channel, legal configuration and form of the read: `S n`
then `R n` returns the bit set, `U n` then `R n` returns it cleared. -/
def Obligations.SetThenReadReturnsTheBitAndClearThenReadZero : Prop :=
  ∀ s : State, ConfigValid s.cfg →
    ∀ p ∈ [(Instr.s1, Instr.u1, Instr.r1), (.s2, .u2, .r2), (.s3, .u3, .r3), (.s4, .u4, .r4), (.s5, .u5, .r5)],
      ∃ t u, runOps [p.1, p.2.2] s = .next t ∧ runOps [p.2.1, p.2.2] t = .next u ∧
        ∃ (w : Nat) (v : BitVec w), t.out.response = some (.hex w v) ∧ v ≠ 0 ∧ u.out.response = some (.hex w 0)

/-- Rules R88, R113, R114: DRVMODE v, EN and DS write `drive_en` alone; EN and DS answer their text; the pins show the
latched lines in the new mode at once. -/
def Obligations.DriveModeCommandsWriteDriveEnOnly : Prop :=
  ∀ s : State,
    ∀ p ∈ [((⟨.command, 0x454E⟩ : Event), Instr.en, (1 : Bit), some Response.textDriven),
      (⟨.command, 0x4453⟩, .ds, 0, some .textSensed), (⟨.drvmode, 1⟩, .drvmode 1, 1, none),
      (⟨.drvmode, 0⟩, .drvmode 0, 0, none)],
      decode s.cfg p.1 = p.2.1 ∧ Completes p.2.1 s fun k a o =>
        k = { s.core with driveEn := p.2.2.1 } ∧ a = s.adj ∧ o.response = p.2.2.2 ∧
        pins ⟨s.cfg, k, a, o, s.inbox⟩ = (p.2.2.1, (pins s).2)

/-! ### Beside CORE -/

/-- Rules R130 to R133: RS and R6 answer the two flags and change nothing; S6 and U6 write the enable flag alone, and the
enable pin stays until the next TICK. -/
def Obligations.AuxiliaryCommandsUseTheFlags : Prop :=
  ∀ s : State,
    decode s.cfg ⟨.command, 0x5253⟩ = .rs ∧ decode s.cfg ⟨.command, 0x5236⟩ = .r6 ∧
    decode s.cfg ⟨.command, 0x5336⟩ = .s6 ∧ decode s.cfg ⟨.command, 0x5536⟩ = .u6 ∧
    (Completes .rs s fun k a o => k = s.core ∧ a = s.adj ∧ o.response = some (.hex 1 s.adj.auxAlarm)) ∧
    (Completes .r6 s fun k a o => k = s.core ∧ a = s.adj ∧ o.response = some (.hex 1 s.adj.auxEnable)) ∧
    (Completes .s6 s fun k a o => k = s.core ∧ a = { s.adj with auxEnable := 1 } ∧ o.response = none) ∧
    (Completes .u6 s fun k a o => k = s.core ∧ a = { s.adj with auxEnable := 0 } ∧ o.response = none)

/-- Rule R134: TICK samples the alarm line into the alarm flag and drives the enable pin with the enable flag, nothing
else. -/
def Obligations.TickSamplesAlarmAndDrivesEnablePin : Prop :=
  ∀ (s : State) (alarmIn : Bit), Completes (.tick alarmIn) s fun k a o =>
    k = s.core ∧ a = { s.adj with auxAlarm := alarmIn, enablePin := s.adj.auxEnable } ∧ o.response = none

/-- Rule R135, which the spec marks as derived, over every event: two machines that differ only in the auxiliary flags and
the enable pin make the same step on CORE and on the pending command byte. -/
def Obligations.AuxiliaryStateNeverReachesCore : Prop :=
  ∀ (s : State) (e : Event) (rest : List Event) (x y z : Bit), s.inbox = e :: rest →
    ∃ k a a' o o',
      step s = .next ⟨s.cfg, k, a, o, rest⟩ ∧
      step { s with adj := { s.adj with auxEnable := x, auxAlarm := y, enablePin := z } } =
        .next ⟨s.cfg, k, a', o', rest⟩ ∧
      a'.pend = a.pend

/-! ### The two fallbacks -/

/-- Rules R115 and R116: a malformed request is answered by its exact text and changes no register. -/
def Obligations.MalformedRequestsOnlyAnswerText : Prop :=
  ∀ (s : State) (c t : Byte),
    (isUnhandledRequest c t = true → decodeCommand c t = .unhandled c t) ∧
    (Completes (.unhandled c t) s fun k a o =>
      k = s.core ∧ a = s.adj ∧ o.response.bind wording = some "Unhandled statement") ∧
    (isUnknownRequest c = true → decodeCommand c t = .unknown c t) ∧
    (Completes (.unknown c t) s fun k a o =>
      k = s.core ∧ a = s.adj ∧ o.response.bind wording = some "Unknown command")

/-! ### The frame decoder and the engine -/

/-- Rule R70 (a): a byte at phase 0 goes to `buf[0]` and moves the phase to 1; the frame, the overlay registers and the
other port bits stay; the lines stay, or go to 0 under CLEAR_ON_BYTE (rule R73, the spec's own parameter, D8). -/
def Obligations.FirstByteIsStoredAndAwaitsSecond : Prop :=
  ∀ (s : State) (d : Byte), s.core.phase = 0 → Completes (.byte d) s fun k a o =>
    k = { s.core with buf0 := d, phase := 1, pout := k.pout } ∧ a = s.adj ∧ o.response = none ∧
    (∀ i, k.pout.getLsbD i = (s.core.pout.getLsbD i && !(s.cfg.clearOnByte && isLine s.cfg i)))

/-- Rules R70 (b), R71, R80 to R84, R31: a byte at phase 1 completes the frame, first byte high; the row is chosen by the
first byte's two top bits; both lines take that row's bits of the effective value as it stood before; that row's one-shot
bits are cleared; every other port bit, one-shot bit and register stays. CLEAR_ON_BYTE makes no difference (rule R73). -/
def Obligations.SecondByteCompletesTheFrame : Prop :=
  ∀ (s : State) (d : Byte), s.core.phase = 1 → Completes (.byte d) s fun k a o =>
    let r : Row := if s.core.buf0.getLsbD 7 then .row3 else if s.core.buf0.getLsbD 6 then .row2 else .row1
    k = { s.core with buf1 := d, phase := 0, frame := k.frame, oneshot := k.oneshot, pout := k.pout } ∧
    a = s.adj ∧ o.response = none ∧
    k.frame.toNat = 256 * s.core.buf0.toNat + d.toNat ∧
    rowOf k.frame = r ∧
    (∀ i < s.cfg.portW, k.pout.getLsbD i =
      if i = s.cfg.outShift then effectiveBit s.core (rowShift s.cfg r)
      else if i = s.cfg.outShift + 1 then effectiveBit s.core (rowShift s.cfg r + 1)
      else s.core.pout.getLsbD i) ∧
    (∀ i, k.oneshot.getLsbD i = (s.core.oneshot.getLsbD i && !inSlice s.cfg r i))

/-- Rule R71: COMPLETE assembles the frame from the two stored bytes and then does what ENGINE does on it. Rule R80 and R28
(3): ENGINE puts the slice of the frame's row on the lines, from the overlay registers as they stood, clears that row's
one-shot bits and touches nothing else. -/
def Obligations.EngineDrivesTheSliceAndConsumesTheRow : Prop :=
  ∀ s : State,
    (Completes .engine s fun k a o =>
      let r := rowOf s.core.frame
      k = { s.core with oneshot := k.oneshot, pout := k.pout } ∧ a = s.adj ∧ o.response = none ∧
      (∀ i < s.cfg.portW, k.pout.getLsbD i =
        if i = s.cfg.outShift then effectiveBit s.core (rowShift s.cfg r)
        else if i = s.cfg.outShift + 1 then effectiveBit s.core (rowShift s.cfg r + 1)
        else s.core.pout.getLsbD i) ∧
      (∀ i, k.oneshot.getLsbD i = (s.core.oneshot.getLsbD i && !inSlice s.cfg r i))) ∧
    (Completes .complete s fun k a o =>
      k.frame.toNat = 256 * s.core.buf0.toNat + s.core.buf1.toNat ∧ a = s.adj ∧ o.response = none ∧
      exec .engine { s with core := { s.core with frame := k.frame } } = .next ⟨s.cfg, k, a, o, s.inbox⟩)

/-- Rules R20 and R81: ROWSEL is pure and total: row 3 when bit 15 is set, else row 2 when bit 14 is, else row 1; bits 13
to 0 are ignored. -/
def Obligations.RowSelectionHasFixedPriority : Prop :=
  ∀ (s : State) (f : Frame), Completes (.rowsel f) s fun k a o =>
    k = s.core ∧ a = s.adj ∧ o.response = none ∧
    (32768 ≤ f.toNat → o.result = some (.row .row3)) ∧
    (16384 ≤ f.toNat → f.toNat < 32768 → o.result = some (.row .row2)) ∧
    (f.toNat < 16384 → o.result = some (.row .row1))

/-- Rule R82: OVMUX is pure and gives the two bits of `p | o` at the row's shift. -/
def Obligations.OverlaySelectionTakesTheRowsTwoBits : Prop :=
  ∀ (s : State) (r : Row) (p o : Nat), Completes (.ovmux r p o) s fun k a out =>
    k = s.core ∧ a = s.adj ∧ out.response = none ∧
    ∃ v : BitVec 2, out.result = some (.slice v) ∧
      ∀ j < 2, v.getLsbD j = (maskBit s.cfg p (rowShift s.cfg r + j) || maskBit s.cfg o (rowShift s.cfg r + j))

/-- Rule R83: DRIVE replaces the two matrix lines by the slice's bits, in order, and preserves every other port bit. -/
def Obligations.DriveReplacesExactlyTwoLines : Prop :=
  ∀ (s : State) (v : BitVec 2), Completes (.drive v) s fun k a o =>
    k = { s.core with pout := k.pout } ∧ a = s.adj ∧ o.response = none ∧
    (∀ i < s.cfg.portW, k.pout.getLsbD i =
      if i = s.cfg.outShift then v.getLsbD 0
      else if i = s.cfg.outShift + 1 then v.getLsbD 1
      else s.core.pout.getLsbD i)

/-- Rule R84: CONSUME clears the two one-shot bits of its row and keeps the others; twice is as once (rule R89). -/
def Obligations.ConsumeClearsTheRowsOneShotBits : Prop :=
  ∀ (s : State) (r : Row),
    (Completes (.consume r) s fun k a o =>
      k = { s.core with oneshot := k.oneshot } ∧ a = s.adj ∧ o.response = none ∧
      (∀ i, k.oneshot.getLsbD i = (s.core.oneshot.getLsbD i && !inSlice s.cfg r i))) ∧
    (∀ t, exec (.consume r) s = .next t → exec (.consume r) t = .next t)

/-- Rules R22, R87: right after a frame completes, the pins show exactly the persistent-or-one-shot bits of its row, in
the mode `drive_en` holds, for every legal configuration (polarity and mode are the spec's own reading, D7, D11; log entry
14). -/
def Obligations.PinsShowTheRowsEffectiveBits : Prop :=
  ∀ (s : State) (d : Byte) (t : State), ConfigValid s.cfg → s.core.phase = 1 → exec (.byte d) s = .next t →
    (pins t).1 = s.core.driveEn ∧
    ∀ j < 2, (pins t).2.getLsbD j = effectiveBit s.core (rowShift s.cfg (rowOf t.core.frame) + j)

/-- Rules R84, R85: of two frames of the same row with nothing between, the first shows the row's one-shot bits with the
persistent ones, the second the persistent ones alone. -/
def Obligations.OneShotBitsShowOnOneFrame : Prop :=
  ∀ (s : State) (d1 d2 d3 d4 : Byte) (t u : State), ConfigValid s.cfg → s.core.phase = 0 →
    rowOf (frameOf d1 d2) = rowOf (frameOf d3 d4) →
    runOps [.byte d1, .byte d2] s = .next t → runOps [.byte d3, .byte d4] t = .next u →
    ∀ j < 2,
      (pins t).2.getLsbD j = effectiveBit s.core (rowShift s.cfg (rowOf (frameOf d1 d2)) + j) ∧
      (pins u).2.getLsbD j = s.core.persist.getLsbD (rowShift s.cfg (rowOf (frameOf d1 d2)) + j)

/-- The source's own scenario (95_test_vectors.md, S1), in every legal configuration: from phase 0 with persistent bits
0b00110000 the frame 0x80, 0x00 asserts both lines, and the next frame 0x40, 0x00 clears both. -/
def Obligations.SourceScenarioHoldsInEveryConfiguration : Prop :=
  ∀ s : State, ConfigValid s.cfg → s.core.phase = 0 →
    s.core.persist = BitVec.ofNat s.cfg.ovW 0x30 → s.core.oneshot = 0 →
    ∃ t u, runOps [.byte 0x80, .byte 0x00] s = .next t ∧ runOps [.byte 0x40, .byte 0x00] t = .next u ∧
      t.core.frame = 0x8000 ∧ (pins t).2 = 0b11 ∧ u.core.frame = 0x4000 ∧ (pins u).2 = 0b00

/-- Rule R75: a series of bytes from phase 0 alternates the phase, completes `n / 2` frames, and after an even number the
frame is the last pair. -/
def Obligations.BytesAlternateThePhase : Prop :=
  ∀ (ds : List Byte) (s : State), s.core.phase = 0 →
    (∃ k : CoreRegs s.cfg,
      (∃ o, runOps (ds.map Instr.byte) s = .next ⟨s.cfg, k, s.adj, o, s.inbox⟩) ∧
      k.phase = (if ds.length % 2 = 0 then 0 else 1) ∧
      (∀ (pre : List Byte) (d1 d2 : Byte), ds = pre ++ [d1, d2] → pre.length % 2 = 0 →
        k.frame = frameOf d1 d2)) ∧
    completions ds s.core = ds.length / 2

/-! ### The bit layer -/

/-- Rule R72, in the spec's words "this spec's own" (D9; log entry 12): BIT shifts the bit in at the end MSB_FIRST chooses
and counts modulo 8; the eighth bit hands the shift register to BYTE, every other bit changes nothing else. -/
def Obligations.BitIsShiftedInAndCounted : Prop :=
  ∀ (s : State) (b : Bit), ∃ sr : Byte,
    (∀ j < 8, sr.getLsbD j =
      if s.cfg.msbFirst then (if j = 0 then b.getLsbD 0 else s.core.sr.getLsbD (j - 1))
      else (if j = 7 then b.getLsbD 0 else s.core.sr.getLsbD (j + 1))) ∧
    (s.core.bitcnt ≠ 7 → Completes (.bit b) s fun k a o =>
      k = { s.core with sr := sr, bitcnt := k.bitcnt } ∧ k.bitcnt.toNat = s.core.bitcnt.toNat + 1 ∧
      a = s.adj ∧ o.response = none) ∧
    (s.core.bitcnt = 7 → ∃ t, exec (.bit b) s = .next t ∧
      exec (.byte sr) { s with core := { s.core with sr := sr, bitcnt := 0 } } = .next t)

/-- Rule R72 (a), (b), the spec's own bit layer (D9; log entry 12): eight bits from a byte boundary are one BYTE of those
bits, first bit at bit 7 under MSB_FIRST and at bit 0 otherwise, whatever the shift register held. -/
def Obligations.EightBitsAreOneByte : Prop :=
  ∀ (s : State) (a1 a2 a3 a4 a5 a6 a7 a8 : Bit), s.core.bitcnt = 0 →
    let d : Byte := if s.cfg.msbFirst then a1 ++ a2 ++ a3 ++ a4 ++ a5 ++ a6 ++ a7 ++ a8
      else a8 ++ a7 ++ a6 ++ a5 ++ a4 ++ a3 ++ a2 ++ a1
    runOps [.bit a1, .bit a2, .bit a3, .bit a4, .bit a5, .bit a6, .bit a7, .bit a8] s =
      exec (.byte d) { s with core := { s.core with sr := d } }

/-! ### The resync monitor -/

/-- Rule R90, with `fv_q` the spec's own way of saying "a transition" (D10): FV l without a transition changes nothing;
with one, of either polarity, the phase goes to 0 and the level is remembered; the same level again changes nothing more.
-/
def Obligations.FrameValidTransitionResetsPhase : Prop :=
  ∀ (s : State) (l : Bit),
    (Completes (.fv l) s fun k a o =>
      a = s.adj ∧ o.response = none ∧
      (l = s.core.fvQ → k = s.core) ∧ (l ≠ s.core.fvQ → k = { s.core with phase := 0, fvQ := l })) ∧
    (∀ t, exec (.fv l) s = .next t → exec (.fv l) t = .next t)

/-- Rule R91: RESYNC forces a phase of 1 to 0, never the other way, and writes nothing else. -/
def Obligations.ResyncOnlyClearsThePhase : Prop :=
  ∀ s : State, Completes .resync s fun k a o =>
    k = { s.core with phase := 0 } ∧ (s.core.phase = 0 → k = s.core) ∧ a = s.adj ∧ o.response = none

/-- Rule R92: neither FV nor RESYNC writes any register but `phase` and `fv_q`, and what they do to these two does not
depend on the rest of the state; neither answers the host. -/
def Obligations.ResyncMonitorIsIsolated : Prop :=
  ∀ s s' : State, s'.core.phase = s.core.phase → s'.core.fvQ = s.core.fvQ →
    ∀ i ∈ [Instr.fv 0, .fv 1, .resync], ∃ p q : Bit,
      (Completes i s fun k a o => k = { s.core with phase := p, fvQ := q } ∧ a = s.adj ∧ o.response = none) ∧
      (Completes i s' fun k a o => k = { s'.core with phase := p, fvQ := q } ∧ a = s'.adj ∧ o.response = none)

/-! ### The command stream -/

/-- Rule R105, the bytes that complete no request (C4, D19, D28 are the spec's own decisions): a terminator keeps the
pending byte, or drops it under TERM_CLEARS_PENDING; the first other byte becomes the pending command byte, unexamined.
CORE and the flags stay. -/
def Obligations.StreamByteWithoutRequestOnlySetsPend : Prop :=
  ∀ (s : State) (x : Byte), (isTerminator x = true ∨ s.adj.pend = none) → Completes (.char x) s fun k a o =>
    k = s.core ∧ o.response = none ∧ a = { s.adj with pend := a.pend } ∧
    (isTerminator x = true → a.pend = if s.cfg.termClearsPending then none else s.adj.pend) ∧
    (isTerminator x = false → a.pend = some x)

/-- Rules R105, R106 (the clearing of `pend` is marked derived by the spec): a byte that finds a command byte pending
completes a request, which does to the machine and answers what the request does, and leaves nothing pending. -/
def Obligations.StreamByteCompletesTheRequest : Prop :=
  ∀ (s : State) (c x : Byte), isTerminator x = false → s.adj.pend = some c →
    Completes (.char x) s fun k a o => ∃ a' o',
      exec (decodeCommand c x) s = .next ⟨s.cfg, k, a', o', s.inbox⟩ ∧
      a = { a' with pend := none } ∧ o.response = o'.response

/-- Rules R105, R61: a request's two bytes, with any number of terminators before, between and after them, do what the
request does, when terminators do not clear the pending byte (the spec's own parameter, D28). -/
def Obligations.TerminatorsAreIgnoredInTheStream : Prop :=
  ∀ (s : State) (c x : Byte) (t1 t2 t3 : List Byte),
    s.cfg.termClearsPending = false → s.adj.pend = none → isTerminator c = false → isTerminator x = false →
    (∀ y ∈ t1 ++ t2 ++ t3, isTerminator y = true) →
    ∃ k a o o', exec (decodeCommand c x) s = .next ⟨s.cfg, k, a, o, s.inbox⟩ ∧
      runOps ((t1 ++ c :: t2 ++ x :: t3).map Instr.char) s = .next ⟨s.cfg, k, { a with pend := none }, o', s.inbox⟩

/-! ### Whole-machine rules -/

/-- Invariant 4 of rule R28, kept by every step from every state that meets it. -/
def Obligations.StepKeepsOtherLines : Prop :=
  ∀ s t : State, OtherLinesKept s → step s = .next t → OtherLinesKept t

/-- Invariant 5 of rule R28, kept by every step from every state that meets it, while the events set no other bit. -/
def Obligations.StepKeepsChannelBitsOnly : Prop :=
  ∀ s t : State, ChannelBitsOnly s → step s = .next t → ChannelBitsOnly t

/-- Rules R23, R43, R150: whatever the host does, the interrupt-owned registers stay, and one-shot bits are only set. -/
def Obligations.HostNeverWritesInterruptOwnedState : Prop :=
  ∀ (s : State) (e : Event) (rest : List Event), s.inbox = e :: rest → e.port.agent = .host →
    StepCompletes s rest fun k _ _ =>
      k = { s.core with persist := k.persist, oneshot := k.oneshot, driveEn := k.driveEn } ∧
      (∀ i, s.core.oneshot.getLsbD i = true → k.oneshot.getLsbD i = true)

/-- Rules R23, R150: whatever the bus and the frame-valid line do, the host's registers stay, one-shot bits are only
cleared, and nothing is answered. -/
def Obligations.InterruptsNeverWriteHostOwnedState : Prop :=
  ∀ (s : State) (e : Event) (rest : List Event), s.inbox = e :: rest →
    e.port.agent = .bus ∨ e.port.agent = .fvLine →
    StepCompletes s rest fun k a o =>
      k.persist = s.core.persist ∧ k.driveEn = s.core.driveEn ∧ a = s.adj ∧ o.response = none ∧
      (∀ i, k.oneshot.getLsbD i = true → s.core.oneshot.getLsbD i = true)

/-- Invariant 6 of rule R28 (rule R15): a one-shot bit rises only by an arming of that bit, and falls only when a frame of
its own row completes, or by RESET. -/
def Obligations.OneShotBitsChangeOnlyByArmAndConsume : Prop :=
  ∀ (s : State) (e : Event) (rest : List Event), s.inbox = e :: rest →
    StepCompletes s rest fun k _ _ => ∀ i,
      (s.core.oneshot.getLsbD i = false → k.oneshot.getLsbD i = true →
        armsBit s.cfg s.adj.pend e i = true) ∧
      (s.core.oneshot.getLsbD i = true → k.oneshot.getLsbD i = false →
        e.port = .resetLine ∨
        (e.port.agent = .bus ∧ s.core.phase = 1 ∧ k.phase = 0 ∧ inSlice s.cfg (rowOf k.frame) i = true))

/-- Invariant 1 of rule R28 (rules R12, R24): the phase becomes 1 only by a byte that arrives at phase 0, and returns to 0
only by a byte, a frame-valid transition or RESET. -/
def Obligations.PhaseChangesOnlyByByteResyncOrReset : Prop :=
  ∀ (s : State) (e : Event) (rest : List Event), s.inbox = e :: rest →
    StepCompletes s rest fun k _ _ => k.phase ≠ s.core.phase →
      (e.port = .bus ∨ (e.port = .serial ∧ s.core.bitcnt = 7)) ∨
      (s.core.phase = 1 ∧ e.port = .frameValid ∧ BitVec.ofNat 1 e.word ≠ s.core.fvQ) ∨
      (s.core.phase = 1 ∧ e.port = .resetLine)

/-- Invariant 2 of rule R28 (rule R13): the frame changes only when a byte arrives at phase 1, and is then the two stored
bytes, first one high; or by RESET. -/
def Obligations.FrameChangesOnlyAtCompletion : Prop :=
  ∀ (s : State) (e : Event) (rest : List Event), s.inbox = e :: rest →
    StepCompletes s rest fun k _ _ => k.frame ≠ s.core.frame →
      e.port = .resetLine ∨
      (e.port.agent = .bus ∧ s.core.phase = 1 ∧ k.phase = 0 ∧ k.frame = k.buf0 ++ k.buf1)

/-- Rules R17, R151: the pin mode changes nothing but whether the pins are driven: two machines that differ in `drive_en`
alone make the same step, but for `drive_en`. -/
def Obligations.DriveModeAffectsNothingElse : Prop :=
  ∀ (s : State) (e : Event) (rest : List Event) (v : Bit), s.inbox = e :: rest →
    ∃ k a o v', step s = .next ⟨s.cfg, k, a, o, rest⟩ ∧
      step { s with core := { s.core with driveEn := v } } = .next ⟨s.cfg, { k with driveEn := v' }, a, o, rest⟩

/-- Rule R11: stored bytes that a later BYTE will overwrite are never read: two machines that differ only in such bytes make
steps that again differ only in such bytes, with the same output. -/
def Obligations.StaleBytesAreNeverRead : Prop :=
  ∀ (s : State) (k' : CoreRegs s.cfg) (e : Event) (rest : List Event), s.inbox = e :: rest →
    SameButStaleBytes s.core k' →
    ∃ k1 k1' a o, step s = .next ⟨s.cfg, k1, a, o, rest⟩ ∧
      step { s with core := k' } = .next ⟨s.cfg, k1', a, o, rest⟩ ∧ SameButStaleBytes k1 k1'

/-! ### Simultaneous events -/

/-- Rules R70, R90: a BYTE and an FV give the same state in either order exactly when the FV carries no transition. Rule R147
(D14) allows both orders, but says that they differ in one case only; that they differ at phase 0 too follows from R70 and
R90 against that remark (log entry 15, DEDUCED). -/
def Obligations.ByteAndFrameValidCommuteWithoutTransition : Prop :=
  ∀ (s : State) (d : Byte) (l : Bit),
    runOps [.byte d, .fv l] s = runOps [.fv l, .byte d] s ↔ l = s.core.fvQ

/-- Rule R147's words "The orders differ in one case only", read literally: at phase 0 the two orders would end alike. By
rules R70 and R90 they do not (BYTE, FV leaves phase 0; FV, BYTE leaves phase 1); log entry 15. Expected to fail. -/
def Obligations.ByteAndFrameValidDifferAtPhaseOneOnly : Prop :=
  ∀ (s : State) (d : Byte) (l : Bit), s.core.phase = 0 →
    runOps [.byte d, .fv l] s = runOps [.fv l, .byte d] s

/-- Rules R38, R42, R147 (D14): an ARM before the completing byte is seen by its engine and consumed with the row; after
it, the armed bits wait. -/
def Obligations.ArmBesideTheCompletingByte : Prop :=
  ∀ (s : State) (m : Nat) (d : Byte) (t u : State), ConfigValid s.cfg → s.core.phase = 1 →
    runOps [.arm m, .byte d] s = .next t → runOps [.byte d, .arm m] s = .next u →
    let r := rowOf (frameOf s.core.buf0 d)
    (∀ j < 2,
      (pins t).2.getLsbD j =
        (effectiveBit s.core (rowShift s.cfg r + j) || maskBit s.cfg m (rowShift s.cfg r + j)) ∧
      (pins u).2.getLsbD j = effectiveBit s.core (rowShift s.cfg r + j)) ∧
    (∀ i, inSlice s.cfg r i = true →
      t.core.oneshot.getLsbD i = false ∧ u.core.oneshot.getLsbD i = maskBit s.cfg m i)

/-! ### The layout of a legal configuration -/

/-- Rules R7, R53: in a legal configuration each overlay bit belongs to at most one row, each channel's mask has exactly
one bit, inside the registers, in exactly one row's slice. -/
def Obligations.EachChannelBelongsToOneRow : Prop :=
  ∀ c : Config, ConfigValid c →
    (∀ r r' : Row, r ≠ r' → rowMask c r &&& rowMask c r' = 0) ∧
    (∀ n n' : Channel, n ≠ n' → chMask c n &&& chMask c n' = 0) ∧
    (∀ n : Channel, ∃ r : Row, chMask c n &&& rowMask c r = chMask c n ∧ chMask c n ≠ 0 ∧
      ∀ r' : Row, r' ≠ r → chMask c n &&& rowMask c r' = 0)

/-! ### Runs -/

/-- Rule R174 (the spec's own definition, D27): a run's observation has one entry for each operation, that of its RESET first:
the pins in the mode DRIVE_EN_RESET with both lines 0 (rule R27's own choice, log entry 17), and no response. It does not
depend on the state before the RESET, and the run ends with no event left. -/
def Obligations.RunObservesEachOperationOnce : Prop :=
  ∀ (s : State) (events : List Event),
    (∃ rest, observeRun s events = ((s.cfg.driveEnReset, 0), none) :: rest ∧ rest.length = events.length) ∧
    (∀ s' : State, s'.cfg = s.cfg → observeRun s' events = observeRun s events) ∧
    (∃ t, finalOfRun s events = .next t ∧ t.cfg = s.cfg ∧ t.inbox = [])
end

