-- ==== Sys2Proof/Laws/State.lean ====
section
/-! SUPPORT. One lemma per field per update, true by rfl, so that no proof unfolds a record update. -/

namespace Sys2Proof.Machine

variable {c : Config}

theorem bit_zero_or_one (b : Bit) : b = 0 ∨ b = 1 := by
  have all : ∀ b : BitVec 1, b = 0 ∨ b = 1 := by decide
  exact all b

/-! ### CORE's registers -/

@[simp] theorem CoreRegs.setPhase_buf0 (k : CoreRegs c) (v : Bit) : (k.setPhase v).buf0 = k.buf0 := rfl
@[simp] theorem CoreRegs.setPhase_buf1 (k : CoreRegs c) (v : Bit) : (k.setPhase v).buf1 = k.buf1 := rfl
@[simp] theorem CoreRegs.setPhase_phase (k : CoreRegs c) (v : Bit) : (k.setPhase v).phase = v := rfl
@[simp] theorem CoreRegs.setPhase_frame (k : CoreRegs c) (v : Bit) : (k.setPhase v).frame = k.frame := rfl
@[simp] theorem CoreRegs.setPhase_persist (k : CoreRegs c) (v : Bit) : (k.setPhase v).persist = k.persist := rfl
@[simp] theorem CoreRegs.setPhase_oneshot (k : CoreRegs c) (v : Bit) : (k.setPhase v).oneshot = k.oneshot := rfl
@[simp] theorem CoreRegs.setPhase_pout (k : CoreRegs c) (v : Bit) : (k.setPhase v).pout = k.pout := rfl
@[simp] theorem CoreRegs.setPhase_driveEn (k : CoreRegs c) (v : Bit) : (k.setPhase v).driveEn = k.driveEn := rfl
@[simp] theorem CoreRegs.setPhase_fvQ (k : CoreRegs c) (v : Bit) : (k.setPhase v).fvQ = k.fvQ := rfl
@[simp] theorem CoreRegs.setPhase_sr (k : CoreRegs c) (v : Bit) : (k.setPhase v).sr = k.sr := rfl
@[simp] theorem CoreRegs.setPhase_bitcnt (k : CoreRegs c) (v : Bit) : (k.setPhase v).bitcnt = k.bitcnt := rfl

@[simp] theorem CoreRegs.setFrame_buf0 (k : CoreRegs c) (v : Frame) : (k.setFrame v).buf0 = k.buf0 := rfl
@[simp] theorem CoreRegs.setFrame_buf1 (k : CoreRegs c) (v : Frame) : (k.setFrame v).buf1 = k.buf1 := rfl
@[simp] theorem CoreRegs.setFrame_phase (k : CoreRegs c) (v : Frame) : (k.setFrame v).phase = k.phase := rfl
@[simp] theorem CoreRegs.setFrame_frame (k : CoreRegs c) (v : Frame) : (k.setFrame v).frame = v := rfl
@[simp] theorem CoreRegs.setFrame_persist (k : CoreRegs c) (v : Frame) : (k.setFrame v).persist = k.persist := rfl
@[simp] theorem CoreRegs.setFrame_oneshot (k : CoreRegs c) (v : Frame) : (k.setFrame v).oneshot = k.oneshot := rfl
@[simp] theorem CoreRegs.setFrame_pout (k : CoreRegs c) (v : Frame) : (k.setFrame v).pout = k.pout := rfl
@[simp] theorem CoreRegs.setFrame_driveEn (k : CoreRegs c) (v : Frame) : (k.setFrame v).driveEn = k.driveEn := rfl
@[simp] theorem CoreRegs.setFrame_fvQ (k : CoreRegs c) (v : Frame) : (k.setFrame v).fvQ = k.fvQ := rfl
@[simp] theorem CoreRegs.setFrame_sr (k : CoreRegs c) (v : Frame) : (k.setFrame v).sr = k.sr := rfl
@[simp] theorem CoreRegs.setFrame_bitcnt (k : CoreRegs c) (v : Frame) : (k.setFrame v).bitcnt = k.bitcnt := rfl

@[simp] theorem CoreRegs.setPersist_buf0 (k : CoreRegs c) (v : BitVec c.ovW) : (k.setPersist v).buf0 = k.buf0 := rfl
@[simp] theorem CoreRegs.setPersist_buf1 (k : CoreRegs c) (v : BitVec c.ovW) : (k.setPersist v).buf1 = k.buf1 := rfl
@[simp] theorem CoreRegs.setPersist_phase (k : CoreRegs c) (v : BitVec c.ovW) : (k.setPersist v).phase = k.phase := rfl
@[simp] theorem CoreRegs.setPersist_frame (k : CoreRegs c) (v : BitVec c.ovW) : (k.setPersist v).frame = k.frame := rfl
@[simp] theorem CoreRegs.setPersist_persist (k : CoreRegs c) (v : BitVec c.ovW) : (k.setPersist v).persist = v := rfl
@[simp] theorem CoreRegs.setPersist_oneshot (k : CoreRegs c) (v : BitVec c.ovW) : (k.setPersist v).oneshot = k.oneshot := rfl
@[simp] theorem CoreRegs.setPersist_pout (k : CoreRegs c) (v : BitVec c.ovW) : (k.setPersist v).pout = k.pout := rfl
@[simp] theorem CoreRegs.setPersist_driveEn (k : CoreRegs c) (v : BitVec c.ovW) : (k.setPersist v).driveEn = k.driveEn := rfl
@[simp] theorem CoreRegs.setPersist_fvQ (k : CoreRegs c) (v : BitVec c.ovW) : (k.setPersist v).fvQ = k.fvQ := rfl
@[simp] theorem CoreRegs.setPersist_sr (k : CoreRegs c) (v : BitVec c.ovW) : (k.setPersist v).sr = k.sr := rfl
@[simp] theorem CoreRegs.setPersist_bitcnt (k : CoreRegs c) (v : BitVec c.ovW) : (k.setPersist v).bitcnt = k.bitcnt := rfl

@[simp] theorem CoreRegs.setOneshot_buf0 (k : CoreRegs c) (v : BitVec c.ovW) : (k.setOneshot v).buf0 = k.buf0 := rfl
@[simp] theorem CoreRegs.setOneshot_buf1 (k : CoreRegs c) (v : BitVec c.ovW) : (k.setOneshot v).buf1 = k.buf1 := rfl
@[simp] theorem CoreRegs.setOneshot_phase (k : CoreRegs c) (v : BitVec c.ovW) : (k.setOneshot v).phase = k.phase := rfl
@[simp] theorem CoreRegs.setOneshot_frame (k : CoreRegs c) (v : BitVec c.ovW) : (k.setOneshot v).frame = k.frame := rfl
@[simp] theorem CoreRegs.setOneshot_persist (k : CoreRegs c) (v : BitVec c.ovW) : (k.setOneshot v).persist = k.persist := rfl
@[simp] theorem CoreRegs.setOneshot_oneshot (k : CoreRegs c) (v : BitVec c.ovW) : (k.setOneshot v).oneshot = v := rfl
@[simp] theorem CoreRegs.setOneshot_pout (k : CoreRegs c) (v : BitVec c.ovW) : (k.setOneshot v).pout = k.pout := rfl
@[simp] theorem CoreRegs.setOneshot_driveEn (k : CoreRegs c) (v : BitVec c.ovW) : (k.setOneshot v).driveEn = k.driveEn := rfl
@[simp] theorem CoreRegs.setOneshot_fvQ (k : CoreRegs c) (v : BitVec c.ovW) : (k.setOneshot v).fvQ = k.fvQ := rfl
@[simp] theorem CoreRegs.setOneshot_sr (k : CoreRegs c) (v : BitVec c.ovW) : (k.setOneshot v).sr = k.sr := rfl
@[simp] theorem CoreRegs.setOneshot_bitcnt (k : CoreRegs c) (v : BitVec c.ovW) : (k.setOneshot v).bitcnt = k.bitcnt := rfl

@[simp] theorem CoreRegs.setPout_buf0 (k : CoreRegs c) (v : BitVec c.portW) : (k.setPout v).buf0 = k.buf0 := rfl
@[simp] theorem CoreRegs.setPout_buf1 (k : CoreRegs c) (v : BitVec c.portW) : (k.setPout v).buf1 = k.buf1 := rfl
@[simp] theorem CoreRegs.setPout_phase (k : CoreRegs c) (v : BitVec c.portW) : (k.setPout v).phase = k.phase := rfl
@[simp] theorem CoreRegs.setPout_frame (k : CoreRegs c) (v : BitVec c.portW) : (k.setPout v).frame = k.frame := rfl
@[simp] theorem CoreRegs.setPout_persist (k : CoreRegs c) (v : BitVec c.portW) : (k.setPout v).persist = k.persist := rfl
@[simp] theorem CoreRegs.setPout_oneshot (k : CoreRegs c) (v : BitVec c.portW) : (k.setPout v).oneshot = k.oneshot := rfl
@[simp] theorem CoreRegs.setPout_pout (k : CoreRegs c) (v : BitVec c.portW) : (k.setPout v).pout = v := rfl
@[simp] theorem CoreRegs.setPout_driveEn (k : CoreRegs c) (v : BitVec c.portW) : (k.setPout v).driveEn = k.driveEn := rfl
@[simp] theorem CoreRegs.setPout_fvQ (k : CoreRegs c) (v : BitVec c.portW) : (k.setPout v).fvQ = k.fvQ := rfl
@[simp] theorem CoreRegs.setPout_sr (k : CoreRegs c) (v : BitVec c.portW) : (k.setPout v).sr = k.sr := rfl
@[simp] theorem CoreRegs.setPout_bitcnt (k : CoreRegs c) (v : BitVec c.portW) : (k.setPout v).bitcnt = k.bitcnt := rfl

@[simp] theorem CoreRegs.setDriveEn_buf0 (k : CoreRegs c) (v : Bit) : (k.setDriveEn v).buf0 = k.buf0 := rfl
@[simp] theorem CoreRegs.setDriveEn_buf1 (k : CoreRegs c) (v : Bit) : (k.setDriveEn v).buf1 = k.buf1 := rfl
@[simp] theorem CoreRegs.setDriveEn_phase (k : CoreRegs c) (v : Bit) : (k.setDriveEn v).phase = k.phase := rfl
@[simp] theorem CoreRegs.setDriveEn_frame (k : CoreRegs c) (v : Bit) : (k.setDriveEn v).frame = k.frame := rfl
@[simp] theorem CoreRegs.setDriveEn_persist (k : CoreRegs c) (v : Bit) : (k.setDriveEn v).persist = k.persist := rfl
@[simp] theorem CoreRegs.setDriveEn_oneshot (k : CoreRegs c) (v : Bit) : (k.setDriveEn v).oneshot = k.oneshot := rfl
@[simp] theorem CoreRegs.setDriveEn_pout (k : CoreRegs c) (v : Bit) : (k.setDriveEn v).pout = k.pout := rfl
@[simp] theorem CoreRegs.setDriveEn_driveEn (k : CoreRegs c) (v : Bit) : (k.setDriveEn v).driveEn = v := rfl
@[simp] theorem CoreRegs.setDriveEn_fvQ (k : CoreRegs c) (v : Bit) : (k.setDriveEn v).fvQ = k.fvQ := rfl
@[simp] theorem CoreRegs.setDriveEn_sr (k : CoreRegs c) (v : Bit) : (k.setDriveEn v).sr = k.sr := rfl
@[simp] theorem CoreRegs.setDriveEn_bitcnt (k : CoreRegs c) (v : Bit) : (k.setDriveEn v).bitcnt = k.bitcnt := rfl

@[simp] theorem CoreRegs.setFvQ_buf0 (k : CoreRegs c) (v : Bit) : (k.setFvQ v).buf0 = k.buf0 := rfl
@[simp] theorem CoreRegs.setFvQ_buf1 (k : CoreRegs c) (v : Bit) : (k.setFvQ v).buf1 = k.buf1 := rfl
@[simp] theorem CoreRegs.setFvQ_phase (k : CoreRegs c) (v : Bit) : (k.setFvQ v).phase = k.phase := rfl
@[simp] theorem CoreRegs.setFvQ_frame (k : CoreRegs c) (v : Bit) : (k.setFvQ v).frame = k.frame := rfl
@[simp] theorem CoreRegs.setFvQ_persist (k : CoreRegs c) (v : Bit) : (k.setFvQ v).persist = k.persist := rfl
@[simp] theorem CoreRegs.setFvQ_oneshot (k : CoreRegs c) (v : Bit) : (k.setFvQ v).oneshot = k.oneshot := rfl
@[simp] theorem CoreRegs.setFvQ_pout (k : CoreRegs c) (v : Bit) : (k.setFvQ v).pout = k.pout := rfl
@[simp] theorem CoreRegs.setFvQ_driveEn (k : CoreRegs c) (v : Bit) : (k.setFvQ v).driveEn = k.driveEn := rfl
@[simp] theorem CoreRegs.setFvQ_fvQ (k : CoreRegs c) (v : Bit) : (k.setFvQ v).fvQ = v := rfl
@[simp] theorem CoreRegs.setFvQ_sr (k : CoreRegs c) (v : Bit) : (k.setFvQ v).sr = k.sr := rfl
@[simp] theorem CoreRegs.setFvQ_bitcnt (k : CoreRegs c) (v : Bit) : (k.setFvQ v).bitcnt = k.bitcnt := rfl

@[simp] theorem CoreRegs.setSr_buf0 (k : CoreRegs c) (v : Byte) : (k.setSr v).buf0 = k.buf0 := rfl
@[simp] theorem CoreRegs.setSr_buf1 (k : CoreRegs c) (v : Byte) : (k.setSr v).buf1 = k.buf1 := rfl
@[simp] theorem CoreRegs.setSr_phase (k : CoreRegs c) (v : Byte) : (k.setSr v).phase = k.phase := rfl
@[simp] theorem CoreRegs.setSr_frame (k : CoreRegs c) (v : Byte) : (k.setSr v).frame = k.frame := rfl
@[simp] theorem CoreRegs.setSr_persist (k : CoreRegs c) (v : Byte) : (k.setSr v).persist = k.persist := rfl
@[simp] theorem CoreRegs.setSr_oneshot (k : CoreRegs c) (v : Byte) : (k.setSr v).oneshot = k.oneshot := rfl
@[simp] theorem CoreRegs.setSr_pout (k : CoreRegs c) (v : Byte) : (k.setSr v).pout = k.pout := rfl
@[simp] theorem CoreRegs.setSr_driveEn (k : CoreRegs c) (v : Byte) : (k.setSr v).driveEn = k.driveEn := rfl
@[simp] theorem CoreRegs.setSr_fvQ (k : CoreRegs c) (v : Byte) : (k.setSr v).fvQ = k.fvQ := rfl
@[simp] theorem CoreRegs.setSr_sr (k : CoreRegs c) (v : Byte) : (k.setSr v).sr = v := rfl
@[simp] theorem CoreRegs.setSr_bitcnt (k : CoreRegs c) (v : Byte) : (k.setSr v).bitcnt = k.bitcnt := rfl

@[simp] theorem CoreRegs.setBitcnt_buf0 (k : CoreRegs c) (v : BitVec 3) : (k.setBitcnt v).buf0 = k.buf0 := rfl
@[simp] theorem CoreRegs.setBitcnt_buf1 (k : CoreRegs c) (v : BitVec 3) : (k.setBitcnt v).buf1 = k.buf1 := rfl
@[simp] theorem CoreRegs.setBitcnt_phase (k : CoreRegs c) (v : BitVec 3) : (k.setBitcnt v).phase = k.phase := rfl
@[simp] theorem CoreRegs.setBitcnt_frame (k : CoreRegs c) (v : BitVec 3) : (k.setBitcnt v).frame = k.frame := rfl
@[simp] theorem CoreRegs.setBitcnt_persist (k : CoreRegs c) (v : BitVec 3) : (k.setBitcnt v).persist = k.persist := rfl
@[simp] theorem CoreRegs.setBitcnt_oneshot (k : CoreRegs c) (v : BitVec 3) : (k.setBitcnt v).oneshot = k.oneshot := rfl
@[simp] theorem CoreRegs.setBitcnt_pout (k : CoreRegs c) (v : BitVec 3) : (k.setBitcnt v).pout = k.pout := rfl
@[simp] theorem CoreRegs.setBitcnt_driveEn (k : CoreRegs c) (v : BitVec 3) : (k.setBitcnt v).driveEn = k.driveEn := rfl
@[simp] theorem CoreRegs.setBitcnt_fvQ (k : CoreRegs c) (v : BitVec 3) : (k.setBitcnt v).fvQ = k.fvQ := rfl
@[simp] theorem CoreRegs.setBitcnt_sr (k : CoreRegs c) (v : BitVec 3) : (k.setBitcnt v).sr = k.sr := rfl
@[simp] theorem CoreRegs.setBitcnt_bitcnt (k : CoreRegs c) (v : BitVec 3) : (k.setBitcnt v).bitcnt = v := rfl

/-! ### The byte buffer -/

@[simp] theorem CoreRegs.readBuf_zero (k : CoreRegs c) : k.readBuf 0 = k.buf0 := rfl
@[simp] theorem CoreRegs.readBuf_one (k : CoreRegs c) : k.readBuf 1 = k.buf1 := rfl
theorem CoreRegs.writeBuf_zero (k : CoreRegs c) (d : Byte) : k.writeBuf 0 d = { k with buf0 := d } := rfl
theorem CoreRegs.writeBuf_one (k : CoreRegs c) (d : Byte) : k.writeBuf 1 d = { k with buf1 := d } := rfl
theorem CoreRegs.readBuf_writeBuf_same (k : CoreRegs c) (i : Bit) (d : Byte) : (k.writeBuf i d).readBuf i = d := by
  rcases bit_zero_or_one i with rfl | rfl <;> rfl
theorem CoreRegs.readBuf_writeBuf_other (k : CoreRegs c) (i j : Bit) (d : Byte) (h : j ≠ i) :
    (k.writeBuf i d).readBuf j = k.readBuf j := by
  rcases bit_zero_or_one i with rfl | rfl <;> rcases bit_zero_or_one j with rfl | rfl <;> first | rfl | exact absurd rfl h
@[simp] theorem CoreRegs.writeBuf_phase (k : CoreRegs c) (i : Bit) (d : Byte) : (k.writeBuf i d).phase = k.phase := by
  unfold CoreRegs.writeBuf; split <;> rfl
@[simp] theorem CoreRegs.writeBuf_frame (k : CoreRegs c) (i : Bit) (d : Byte) : (k.writeBuf i d).frame = k.frame := by
  unfold CoreRegs.writeBuf; split <;> rfl
@[simp] theorem CoreRegs.writeBuf_persist (k : CoreRegs c) (i : Bit) (d : Byte) : (k.writeBuf i d).persist = k.persist := by
  unfold CoreRegs.writeBuf; split <;> rfl
@[simp] theorem CoreRegs.writeBuf_oneshot (k : CoreRegs c) (i : Bit) (d : Byte) : (k.writeBuf i d).oneshot = k.oneshot := by
  unfold CoreRegs.writeBuf; split <;> rfl
@[simp] theorem CoreRegs.writeBuf_pout (k : CoreRegs c) (i : Bit) (d : Byte) : (k.writeBuf i d).pout = k.pout := by
  unfold CoreRegs.writeBuf; split <;> rfl
@[simp] theorem CoreRegs.writeBuf_driveEn (k : CoreRegs c) (i : Bit) (d : Byte) : (k.writeBuf i d).driveEn = k.driveEn := by
  unfold CoreRegs.writeBuf; split <;> rfl
@[simp] theorem CoreRegs.writeBuf_fvQ (k : CoreRegs c) (i : Bit) (d : Byte) : (k.writeBuf i d).fvQ = k.fvQ := by
  unfold CoreRegs.writeBuf; split <;> rfl
@[simp] theorem CoreRegs.writeBuf_sr (k : CoreRegs c) (i : Bit) (d : Byte) : (k.writeBuf i d).sr = k.sr := by
  unfold CoreRegs.writeBuf; split <;> rfl
@[simp] theorem CoreRegs.writeBuf_bitcnt (k : CoreRegs c) (i : Bit) (d : Byte) : (k.writeBuf i d).bitcnt = k.bitcnt := by
  unfold CoreRegs.writeBuf; split <;> rfl

/-! ### The overlay store -/

theorem CoreRegs.setPersistBits_eq (k : CoreRegs c) (m : BitVec c.ovW) : k.setPersistBits m = { k with persist := k.persist ||| m } := rfl
theorem CoreRegs.clearPersistBits_eq (k : CoreRegs c) (m : BitVec c.ovW) : k.clearPersistBits m = { k with persist := k.persist &&& ~~~m } := rfl
theorem CoreRegs.armBits_eq (k : CoreRegs c) (m : BitVec c.ovW) : k.armBits m = { k with oneshot := k.oneshot ||| m } := rfl

/-! ### The adjacent state -/

@[simp] theorem Adjacent.setAuxEnable_auxEnable (a : Adjacent) (v : Bit) : (a.setAuxEnable v).auxEnable = v := rfl
@[simp] theorem Adjacent.setAuxEnable_auxAlarm (a : Adjacent) (v : Bit) : (a.setAuxEnable v).auxAlarm = a.auxAlarm := rfl
@[simp] theorem Adjacent.setAuxEnable_pend (a : Adjacent) (v : Bit) : (a.setAuxEnable v).pend = a.pend := rfl
@[simp] theorem Adjacent.setAuxEnable_enablePin (a : Adjacent) (v : Bit) : (a.setAuxEnable v).enablePin = a.enablePin := rfl
@[simp] theorem Adjacent.setAuxAlarm_auxEnable (a : Adjacent) (v : Bit) : (a.setAuxAlarm v).auxEnable = a.auxEnable := rfl
@[simp] theorem Adjacent.setAuxAlarm_auxAlarm (a : Adjacent) (v : Bit) : (a.setAuxAlarm v).auxAlarm = v := rfl
@[simp] theorem Adjacent.setAuxAlarm_pend (a : Adjacent) (v : Bit) : (a.setAuxAlarm v).pend = a.pend := rfl
@[simp] theorem Adjacent.setAuxAlarm_enablePin (a : Adjacent) (v : Bit) : (a.setAuxAlarm v).enablePin = a.enablePin := rfl
@[simp] theorem Adjacent.setPend_auxEnable (a : Adjacent) (v : Option Byte) : (a.setPend v).auxEnable = a.auxEnable := rfl
@[simp] theorem Adjacent.setPend_auxAlarm (a : Adjacent) (v : Option Byte) : (a.setPend v).auxAlarm = a.auxAlarm := rfl
@[simp] theorem Adjacent.setPend_pend (a : Adjacent) (v : Option Byte) : (a.setPend v).pend = v := rfl
@[simp] theorem Adjacent.setPend_enablePin (a : Adjacent) (v : Option Byte) : (a.setPend v).enablePin = a.enablePin := rfl
@[simp] theorem Adjacent.setEnablePin_auxEnable (a : Adjacent) (v : Bit) : (a.setEnablePin v).auxEnable = a.auxEnable := rfl
@[simp] theorem Adjacent.setEnablePin_auxAlarm (a : Adjacent) (v : Bit) : (a.setEnablePin v).auxAlarm = a.auxAlarm := rfl
@[simp] theorem Adjacent.setEnablePin_pend (a : Adjacent) (v : Bit) : (a.setEnablePin v).pend = a.pend := rfl
@[simp] theorem Adjacent.setEnablePin_enablePin (a : Adjacent) (v : Bit) : (a.setEnablePin v).enablePin = v := rfl

/-! ### Outputs -/

@[simp] theorem Output.silent_response : Output.silent.response = none := rfl
@[simp] theorem Output.respond_response (v : Response) : (Output.respond v).response = some v := rfl
@[simp] theorem Output.give_response (v : ActionResult) : (Output.give v).response = none := rfl
@[simp] theorem Output.echoing_response (o : Output) (x : Byte) : (o.echoing x).response = o.response := rfl
@[simp] theorem Output.silent_echo : Output.silent.echo = none := rfl
@[simp] theorem Output.respond_echo (v : Response) : (Output.respond v).echo = none := rfl
@[simp] theorem Output.give_echo (v : ActionResult) : (Output.give v).echo = none := rfl
@[simp] theorem Output.echoing_echo (o : Output) (x : Byte) : (o.echoing x).echo = some x := rfl
@[simp] theorem Output.silent_result : Output.silent.result = none := rfl
@[simp] theorem Output.respond_result (v : Response) : (Output.respond v).result = none := rfl
@[simp] theorem Output.give_result (v : ActionResult) : (Output.give v).result = some v := rfl
@[simp] theorem Output.echoing_result (o : Output) (x : Byte) : (o.echoing x).result = o.result := rfl

/-! ### How operations end, as whole states -/

theorem State.finish_eq (s : State) (k : CoreRegs s.cfg) (a : Adjacent) (o : Output) :
    s.finish k a o = ⟨s.cfg, k, a, o, s.inbox⟩ := rfl
theorem State.withCore_eq (s : State) (k : CoreRegs s.cfg) :
    s.withCore k = ⟨s.cfg, k, s.adj, Output.silent, s.inbox⟩ := rfl
theorem State.withAdj_eq (s : State) (a : Adjacent) :
    s.withAdj a = ⟨s.cfg, s.core, a, Output.silent, s.inbox⟩ := rfl
theorem State.answer_eq (s : State) (v : Response) :
    s.answer v = ⟨s.cfg, s.core, s.adj, Output.respond v, s.inbox⟩ := rfl
theorem State.fetch_empty (s : State) (h : s.inbox = []) : s.fetch = none := by
  simp [State.fetch, h]
theorem State.fetch_cons (s : State) (e : Event) (rest : List Event) (h : s.inbox = e :: rest) :
    s.fetch = some (e, { s with inbox := rest }) := by
  simp [State.fetch, h]

end Sys2Proof.Machine
end

