-- ==== Sys2Proof/Laws/Commands.lean ====
section
/-! SUPPORT. DISPATCH's table of handlers is the decoder's table carried through exec, so running a request from the
command stream is running the operation it decodes to; and a request decodes to a row of the table or to a fallback. -/

namespace Sys2Proof.Machine

theorem handlers_eq_map : handlers = commandTable.map (fun p => (p.1, exec p.2)) := rfl

theorem lookup_map_snd {α β γ : Type} [BEq α] (f : β → γ) (a : α) (l : List (α × β)) :
    (l.map (fun p => (p.1, f p.2))).lookup a = (l.lookup a).map f := by
  induction l with
  | nil => rfl
  | cons p l ih =>
    obtain ⟨x, y⟩ := p
    simp only [List.map_cons, List.lookup_cons]
    cases a == x
    · simpa using ih
    · rfl

/-- Running a request is exec of what it decodes to (rule R106). -/
theorem dispatch_eq_exec (c t : Byte) (s : State) : dispatch c t s = exec (decodeCommand c t) s := by
  unfold dispatch decodeCommand
  rw [handlers_eq_map, lookup_map_snd]
  split
  · cases commandTable.lookup (requestWord c t) <;> rfl
  · rfl

/-- The command byte is the high half of a request word (rule R55). -/
theorem toNat_requestWord (c t : Byte) : (requestWord c t).toNat = c.toNat * 256 + t.toNat := by
  have ht := t.isLt
  rw [requestWord, BitVec.toNat_append, ← Nat.shiftLeft_add_eq_or_of_lt ht, Nat.shiftLeft_eq]

theorem mem_of_lookup_eq_some {α β : Type} [BEq α] [LawfulBEq α] {a : α} {b : β} {l : List (α × β)}
    (h : l.lookup a = some b) : (a, b) ∈ l := by
  induction l with
  | nil => simp at h
  | cons p l ih =>
    obtain ⟨x, y⟩ := p
    simp only [List.lookup_cons] at h
    split at h
    · rename_i heq
      cases h
      rw [eq_of_beq heq]
      exact List.mem_cons_self
    · exact List.mem_cons_of_mem _ (ih h)

/-- A request decodes to its row of the table, or to one of the two fallbacks (rule R106). -/
theorem decodeCommand_cases (c t : Byte) :
    (∃ i, (requestWord c t, i) ∈ commandTable ∧ decodeCommand c t = i) ∨
    decodeCommand c t = .unhandled c t ∨ decodeCommand c t = .unknown c t := by
  unfold decodeCommand
  split
  · cases h : commandTable.lookup (requestWord c t)
    · exact .inr (.inl rfl)
    · exact .inl ⟨_, mem_of_lookup_eq_some h, rfl⟩
  · exact .inr (.inr rfl)

/-- CHAR, case by case (rule R105). -/
theorem execChar_terminator (x : Byte) (s : State) (h : isTerminator x = true) :
    execChar x s = .next (s.finish s.core (if s.cfg.termClearsPending then s.adj.setPend none else s.adj)
      (Output.silent.echoing x)) := by
  simp [execChar, h]

theorem execChar_first (x : Byte) (s : State) (h : isTerminator x = false) (hp : s.adj.pend = none) :
    execChar x s = .next (s.finish s.core (s.adj.setPend (some x)) (Output.silent.echoing x)) := by
  simp [execChar, h, hp]

theorem execChar_second (x c : Byte) (s : State) (h : isTerminator x = false) (hp : s.adj.pend = some c) :
    execChar x s = endRequest x (exec (decodeCommand c x) s) := by
  simp [execChar, h, hp, dispatch_eq_exec]

end Sys2Proof.Machine
end

