-- ==== Sys2Proof/Laws/Exec.lean ====
section
/-! SUPPORT. exec of each instruction on a state taken apart into its parts, so that a proof about one instruction rewrites
with its line and works on the registers alone (the overlay and port widths then are those of the one configuration `c`). -/

namespace Sys2Proof.Machine

variable (c : Config) (k : CoreRegs c) (a : Adjacent) (o : Output) (q : List Event)

theorem exec_ra : exec .ra ⟨c, k, a, o, q⟩ =
    .next ⟨c, k, a, Output.respond (.hex 16 k.frame), q⟩ := rfl
theorem exec_rw : exec .rw ⟨c, k, a, o, q⟩ =
    .next ⟨c, k, a, Output.respond (.hex c.ovW k.persist), q⟩ := rfl
theorem exec_rs : exec .rs ⟨c, k, a, o, q⟩ =
    .next ⟨c, k, a, Output.respond (.hex 1 a.auxAlarm), q⟩ := rfl
theorem exec_r1 : exec .r1 ⟨c, k, a, o, q⟩ =
    .next ⟨c, k, a, Output.respond (k.channelResponse (chMask c .ch1)), q⟩ := rfl
theorem exec_r2 : exec .r2 ⟨c, k, a, o, q⟩ =
    .next ⟨c, k, a, Output.respond (k.channelResponse (chMask c .ch2)), q⟩ := rfl
theorem exec_r3 : exec .r3 ⟨c, k, a, o, q⟩ =
    .next ⟨c, k, a, Output.respond (k.channelResponse (chMask c .ch3)), q⟩ := rfl
theorem exec_r4 : exec .r4 ⟨c, k, a, o, q⟩ =
    .next ⟨c, k, a, Output.respond (k.channelResponse (chMask c .ch4)), q⟩ := rfl
theorem exec_r5 : exec .r5 ⟨c, k, a, o, q⟩ =
    .next ⟨c, k, a, Output.respond (k.channelResponse (chMask c .ch5)), q⟩ := rfl
theorem exec_r6 : exec .r6 ⟨c, k, a, o, q⟩ =
    .next ⟨c, k, a, Output.respond (.hex 1 a.auxEnable), q⟩ := rfl
theorem exec_s1 : exec .s1 ⟨c, k, a, o, q⟩ =
    .next ⟨c, k.setPersistBits (chMask c .ch1), a, Output.silent, q⟩ := rfl
theorem exec_s2 : exec .s2 ⟨c, k, a, o, q⟩ =
    .next ⟨c, k.setPersistBits (chMask c .ch2), a, Output.silent, q⟩ := rfl
theorem exec_s3 : exec .s3 ⟨c, k, a, o, q⟩ =
    .next ⟨c, k.setPersistBits (chMask c .ch3), a, Output.silent, q⟩ := rfl
theorem exec_s4 : exec .s4 ⟨c, k, a, o, q⟩ =
    .next ⟨c, k.setPersistBits (chMask c .ch4), a, Output.silent, q⟩ := rfl
theorem exec_s5 : exec .s5 ⟨c, k, a, o, q⟩ =
    .next ⟨c, k.setPersistBits (chMask c .ch5), a, Output.silent, q⟩ := rfl
theorem exec_s6 : exec .s6 ⟨c, k, a, o, q⟩ =
    .next ⟨c, k, a.setAuxEnable 1, Output.silent, q⟩ := rfl
theorem exec_u1 : exec .u1 ⟨c, k, a, o, q⟩ =
    .next ⟨c, k.clearPersistBits (chMask c .ch1), a, Output.silent, q⟩ := rfl
theorem exec_u2 : exec .u2 ⟨c, k, a, o, q⟩ =
    .next ⟨c, k.clearPersistBits (chMask c .ch2), a, Output.silent, q⟩ := rfl
theorem exec_u3 : exec .u3 ⟨c, k, a, o, q⟩ =
    .next ⟨c, k.clearPersistBits (chMask c .ch3), a, Output.silent, q⟩ := rfl
theorem exec_u4 : exec .u4 ⟨c, k, a, o, q⟩ =
    .next ⟨c, k.clearPersistBits (chMask c .ch4), a, Output.silent, q⟩ := rfl
theorem exec_u5 : exec .u5 ⟨c, k, a, o, q⟩ =
    .next ⟨c, k.clearPersistBits (chMask c .ch5), a, Output.silent, q⟩ := rfl
theorem exec_u6 : exec .u6 ⟨c, k, a, o, q⟩ =
    .next ⟨c, k, a.setAuxEnable 0, Output.silent, q⟩ := rfl
theorem exec_p1 : exec .p1 ⟨c, k, a, o, q⟩ =
    .next ⟨c, k.armBits (chMask c .ch1), a, Output.silent, q⟩ := rfl
theorem exec_p2 : exec .p2 ⟨c, k, a, o, q⟩ =
    .next ⟨c, k.armBits (chMask c .ch2), a, Output.silent, q⟩ := rfl
theorem exec_p3 : exec .p3 ⟨c, k, a, o, q⟩ =
    .next ⟨c, k.armBits (chMask c .ch3), a, Output.silent, q⟩ := rfl
theorem exec_p4 : exec .p4 ⟨c, k, a, o, q⟩ =
    .next ⟨c, k.armBits (chMask c .ch4), a, Output.silent, q⟩ := rfl
theorem exec_p5 : exec .p5 ⟨c, k, a, o, q⟩ =
    .next ⟨c, k.armBits (chMask c .ch5), a, Output.silent, q⟩ := rfl
theorem exec_en : exec .en ⟨c, k, a, o, q⟩ =
    .next ⟨c, k.setDriveEn 1, a, Output.respond .textDriven, q⟩ := rfl
theorem exec_ds : exec .ds ⟨c, k, a, o, q⟩ =
    .next ⟨c, k.setDriveEn 0, a, Output.respond .textSensed, q⟩ := rfl
theorem exec_unhandled (l t : Byte) : exec (.unhandled l t) ⟨c, k, a, o, q⟩ =
    .next ⟨c, k, a, Output.respond .textUnhandled, q⟩ := rfl
theorem exec_unknown (l t : Byte) : exec (.unknown l t) ⟨c, k, a, o, q⟩ =
    .next ⟨c, k, a, Output.respond .textUnknown, q⟩ := rfl
theorem exec_byte (d : Byte) : exec (.byte d) ⟨c, k, a, o, q⟩ =
    .next ⟨c, k.receiveByte d, a, Output.silent, q⟩ := rfl
theorem exec_bit (b : Bit) : exec (.bit b) ⟨c, k, a, o, q⟩ =
    .next ⟨c, k.receiveBit b, a, Output.silent, q⟩ := rfl
theorem exec_fv (l : Bit) : exec (.fv l) ⟨c, k, a, o, q⟩ =
    .next ⟨c, k.observeFv l, a, Output.silent, q⟩ := rfl
theorem exec_tick (x : Bit) : exec (.tick x) ⟨c, k, a, o, q⟩ =
    .next ⟨c, k, (a.setAuxAlarm x).setEnablePin a.auxEnable, Output.silent, q⟩ := rfl
theorem exec_reset : exec .reset ⟨c, k, a, o, q⟩ =
    .next ⟨c, coreReset c, adjacentReset, Output.silent, q⟩ := rfl
theorem exec_setp (m : Nat) : exec (.setp m) ⟨c, k, a, o, q⟩ =
    .next ⟨c, k.setPersistBits (overlayOfMask c m), a, Output.silent, q⟩ := rfl
theorem exec_clrp (m : Nat) : exec (.clrp m) ⟨c, k, a, o, q⟩ =
    .next ⟨c, k.clearPersistBits (overlayOfMask c m), a, Output.silent, q⟩ := rfl
theorem exec_arm (m : Nat) : exec (.arm m) ⟨c, k, a, o, q⟩ =
    .next ⟨c, k.armBits (overlayOfMask c m), a, Output.silent, q⟩ := rfl
theorem exec_rdp : exec .rdp ⟨c, k, a, o, q⟩ =
    .next ⟨c, k, a, Output.respond (.hex c.ovW k.persist), q⟩ := rfl
theorem exec_rdch (m : Nat) : exec (.rdch m) ⟨c, k, a, o, q⟩ =
    .next ⟨c, k, a, Output.respond (k.channelResponse (overlayOfMask c m)), q⟩ := rfl
theorem exec_rdf : exec .rdf ⟨c, k, a, o, q⟩ =
    .next ⟨c, k, a, Output.respond (.hex 16 k.frame), q⟩ := rfl
theorem exec_drvmode (v : Bit) : exec (.drvmode v) ⟨c, k, a, o, q⟩ =
    .next ⟨c, k.setDriveEn v, a, Output.silent, q⟩ := rfl
theorem exec_complete : exec .complete ⟨c, k, a, o, q⟩ =
    .next ⟨c, k.complete, a, Output.silent, q⟩ := rfl
theorem exec_engine : exec .engine ⟨c, k, a, o, q⟩ =
    .next ⟨c, k.engine, a, Output.silent, q⟩ := rfl
theorem exec_rowsel (f : Frame) : exec (.rowsel f) ⟨c, k, a, o, q⟩ =
    .next ⟨c, k, a, Output.give (.row (rowOf f)), q⟩ := rfl
theorem exec_ovmux (r : Row) (p e : Nat) : exec (.ovmux r p e) ⟨c, k, a, o, q⟩ =
    .next ⟨c, k, a, Output.give (.slice (ovmux c r (overlayOfMask c p) (overlayOfMask c e))), q⟩ := rfl
theorem exec_drive (v : BitVec 2) : exec (.drive v) ⟨c, k, a, o, q⟩ =
    .next ⟨c, k.drive v, a, Output.silent, q⟩ := rfl
theorem exec_consume (r : Row) : exec (.consume r) ⟨c, k, a, o, q⟩ =
    .next ⟨c, k.consume r, a, Output.silent, q⟩ := rfl
theorem exec_resync : exec .resync ⟨c, k, a, o, q⟩ =
    .next ⟨c, k.resync, a, Output.silent, q⟩ := rfl
theorem exec_char_terminator (x : Byte) (h : isTerminator x = true) : exec (.char x) ⟨c, k, a, o, q⟩ =
    .next ⟨c, k, if c.termClearsPending then a.setPend none else a, Output.silent.echoing x, q⟩ :=
  execChar_terminator x _ h
theorem exec_char_first (x : Byte) (h : isTerminator x = false) (hp : a.pend = none) :
    exec (.char x) ⟨c, k, a, o, q⟩ = .next ⟨c, k, a.setPend (some x), Output.silent.echoing x, q⟩ :=
  execChar_first x _ h hp
theorem exec_char_second (x l : Byte) (h : isTerminator x = false) (hp : a.pend = some l) :
    exec (.char x) ⟨c, k, a, o, q⟩ = endRequest x (exec (decodeCommand l x) ⟨c, k, a, o, q⟩) :=
  execChar_second x l _ h hp

end Sys2Proof.Machine
end

