-- ==== Sys2Proof/Laws/Observe.lean ====
section
/-! SUPPORT. Steps and runs on a state taken apart: a step is exec of the decoded event, and a run starts with RESET, after which
nothing of the state before is left but its configuration. -/

namespace Sys2Proof.Machine

variable (c : Config) (k : CoreRegs c) (a : Adjacent) (o : Output) (e : Event) (q : List Event)

theorem step_empty : step ⟨c, k, a, o, []⟩ = .next ⟨c, k, a, o, []⟩ := rfl

theorem step_cons : step ⟨c, k, a, o, e :: q⟩ = exec (decode c e) ⟨c, k, a, o, q⟩ := rfl

theorem stepThrough_nil (s : State) : stepThrough [] s = .next s := rfl

theorem stepThrough_cons {s t : State} (rest : List Event) (h : step s = .next t) :
    stepThrough (e :: rest) s = stepThrough rest t := by simp [stepThrough, h]

theorem observeThrough_nil (s : State) : observeThrough [] s = [] := rfl

theorem observeThrough_cons {s t : State} (rest : List Event) (h : step s = .next t) :
    observeThrough (e :: rest) s = observe t :: observeThrough rest t := by simp [observeThrough, h]

/-- The first step of a run (rules R160, R174). -/
theorem step_runStart (s : State) :
    step (runStart s q) = .next ⟨s.cfg, coreReset s.cfg, adjacentReset, Output.silent, q⟩ := rfl

/-- A run's observation: the reset state's, then that of the events from the reset state. -/
theorem observeRun_eq (s : State) :
    observeRun s q = observe (State.resetOf s.cfg) ::
      observeThrough q ⟨s.cfg, coreReset s.cfg, adjacentReset, Output.silent, q⟩ := rfl

theorem finalOfRun_eq (s : State) :
    finalOfRun s q = stepThrough q ⟨s.cfg, coreReset s.cfg, adjacentReset, Output.silent, q⟩ := rfl

end Sys2Proof.Machine
end

