-- ==== Sys2Proof/Laws/Ops.lean ====
section
/-! SUPPORT. What each shared operation can do, said once: the bits of the masks and of the operand forms, and the whole
effect of the engine, the decoder, the bit layer and the resync monitor as record updates. -/

namespace Sys2Proof.Machine

variable {c : Config}

/-! ### One-bit values -/

theorem phaseNext_zero : phaseNext 0 = 1 := rfl
theorem phaseNext_one : phaseNext 1 = 0 := rfl

/-! ### Bits of masks and operand forms -/

theorem getLsbD_three (w i : Nat) : (BitVec.ofNat w 3).getLsbD i = (decide (i < w) && decide (i < 2)) := by
  rw [BitVec.getLsbD_ofNat]
  congr 1
  rcases i with _ | _ | i
  · decide
  · decide
  · simp [Nat.testBit_succ]

@[simp] theorem getLsbD_rowMask (r : Row) (i : Nat) : (rowMask c r).getLsbD i = (decide (i < c.ovW) && inSlice c r i) := by
  simp only [rowMask, inSlice, BitVec.getLsbD_shiftLeft, getLsbD_three]
  by_cases h1 : i < c.ovW <;> by_cases h2 : rowShift c r ≤ i <;> by_cases h3 : i < rowShift c r + 2 <;>
    simp [h1, h2, h3] <;> omega

@[simp] theorem getLsbD_lineMask (i : Nat) : (lineMask c).getLsbD i = (decide (i < c.portW) && isLine c i) := by
  simp only [lineMask, isLine, BitVec.getLsbD_shiftLeft, getLsbD_three]
  by_cases h1 : i < c.portW <;> by_cases h2 : c.outShift ≤ i <;> by_cases h3 : i < c.outShift + 2 <;>
    simp [h1, h2, h3] <;> omega

@[simp] theorem getLsbD_chMask (n : Channel) (i : Nat) :
    (chMask c n).getLsbD i = (decide (i < c.ovW) && decide (i = chBit c n)) := by
  simp only [chMask, BitVec.getLsbD_shiftLeft, BitVec.getLsbD_ofNat]
  by_cases h1 : i < c.ovW <;> by_cases h2 : i = chBit c n
  · simp [h2]; omega
  · by_cases h3 : i < chBit c n
    · simp [h1, h2, h3]
    · have : i - chBit c n ≠ 0 := by omega
      obtain ⟨j, hj⟩ := Nat.exists_eq_succ_of_ne_zero this
      simp [h1, h2, h3, hj, Nat.testBit_succ]
  · simp [h1]
  · simp [h1]

@[simp] theorem getLsbD_overlayOfMask (m : Nat) (i : Nat) :
    (overlayOfMask c m).getLsbD i = (decide (i < c.ovW) && m.testBit i) :=
  BitVec.getLsbD_ofNat ..

theorem getLsbD_sliceOf (r : Row) (v : BitVec c.ovW) (j : Nat) (h : j < 2) :
    (sliceOf c r v).getLsbD j = v.getLsbD (rowShift c r + j) := by
  simp [sliceOf, h]

theorem getLsbD_linesOf (p : BitVec c.portW) (j : Nat) (h : j < 2) :
    (linesOf c p).getLsbD j = p.getLsbD (c.outShift + j) := by
  simp [linesOf, h]

theorem getLsbD_linePattern (s : BitVec 2) (i : Nat) :
    (linePattern c s).getLsbD i = (decide (i < c.portW) && decide (c.outShift ≤ i) && s.getLsbD (i - c.outShift)) := by
  simp only [linePattern, BitVec.getLsbD_shiftLeft, BitVec.getLsbD_setWidth]
  by_cases h1 : i < c.portW <;> by_cases h2 : c.outShift ≤ i
  · have : i - c.outShift < c.portW := by omega
    have h3 : ¬ i < c.outShift := by omega
    simp [h1, h2, h3, this]
  · simp [h2]
  · simp [h1]
  · simp [h1]

@[simp] theorem getElem_rowMask (r : Row) (i : Nat) (h : i < c.ovW) : (rowMask c r)[i] = inSlice c r i := by
  simp [← BitVec.getLsbD_eq_getElem, h]

@[simp] theorem getElem_lineMask (i : Nat) (h : i < c.portW) : (lineMask c)[i] = isLine c i := by
  simp [← BitVec.getLsbD_eq_getElem, h]

@[simp] theorem getElem_chMask (n : Channel) (i : Nat) (h : i < c.ovW) : (chMask c n)[i] = decide (i = chBit c n) := by
  simp [← BitVec.getLsbD_eq_getElem, h]

@[simp] theorem getElem_overlayOfMask (m i : Nat) (h : i < c.ovW) : (overlayOfMask c m)[i] = m.testBit i := by
  simp [← BitVec.getLsbD_eq_getElem, h]

theorem getElem_linePattern (s : BitVec 2) (i : Nat) (h : i < c.portW) :
    (linePattern c s)[i] = (decide (c.outShift ≤ i) && s.getLsbD (i - c.outShift)) := by
  rw [← BitVec.getLsbD_eq_getElem, getLsbD_linePattern]
  simp [h]

/-! ### The engine's parts and the whole -/

theorem drive_eq (k : CoreRegs c) (s : BitVec 2) :
    k.drive s = { k with pout := (k.pout &&& ~~~lineMask c) ||| linePattern c s } := rfl

theorem consume_eq (k : CoreRegs c) (r : Row) :
    k.consume r = { k with oneshot := k.oneshot &&& ~~~rowMask c r } := rfl

theorem clearLines_eq (k : CoreRegs c) : k.clearLines = { k with pout := k.pout &&& ~~~lineMask c } := rfl

/-- The engine writes the port and the one-shot bits, both from the registers as they stood (rule R80). -/
theorem engine_eq (k : CoreRegs c) :
    k.engine = { k with
      pout := (k.pout &&& ~~~lineMask c) ||| linePattern c (ovmux c (rowOf k.frame) k.persist k.oneshot)
      oneshot := k.oneshot &&& ~~~rowMask c (rowOf k.frame) } := rfl

theorem complete_eq (k : CoreRegs c) : k.complete = ({ k with frame := frameOf k.buf0 k.buf1 } : CoreRegs c).engine := rfl

/-- The bits of a port after DRIVE (rule R83). -/
theorem getLsbD_driven (p : BitVec c.portW) (v : BitVec 2) (i : Nat) (hi : i < c.portW) :
   ((p &&& ~~~lineMask c) ||| linePattern c v).getLsbD i = if i = c.outShift then v.getLsbD 0
      else if i = c.outShift + 1 then v.getLsbD 1 else p.getLsbD i := by
  rw [BitVec.getLsbD_or, BitVec.getLsbD_and, BitVec.getLsbD_not, getLsbD_lineMask, getLsbD_linePattern]
  simp only [hi, decide_true, Bool.true_and, isLine]
  by_cases h1 : i = c.outShift
  · subst h1; simp
  · by_cases h2 : i = c.outShift + 1
    · subst h2; simp
    · simp only [h1, h2, if_false]
      by_cases h3 : c.outShift ≤ i
      · have : 2 ≤ i - c.outShift := by omega
        have h4 : ¬ (i < c.outShift + 2) := by omega
        simp [h4, BitVec.getLsbD_of_ge v _ this]
      · simp [h3]

/-- The bits of the one-shot register after CONSUME (rule R84). -/
theorem getLsbD_consumed (o : BitVec c.ovW) (r : Row) (i : Nat) :
   (o &&& ~~~rowMask c r).getLsbD i = (o.getLsbD i && !inSlice c r i) := by
  rw [BitVec.getLsbD_and, BitVec.getLsbD_not, getLsbD_rowMask]
  cases hb : o.getLsbD i
  · simp
  · simp [BitVec.lt_of_getLsbD hb]

/-! ### Twice is as once (rule R89) -/

theorem setPersistBits_twice (k : CoreRegs c) (m : BitVec c.ovW) :
    (k.setPersistBits m).setPersistBits m = k.setPersistBits m := by
  simp [CoreRegs.setPersistBits, CoreRegs.setPersist, BitVec.or_assoc]

theorem clearPersistBits_twice (k : CoreRegs c) (m : BitVec c.ovW) :
    (k.clearPersistBits m).clearPersistBits m = k.clearPersistBits m := by
  simp [CoreRegs.clearPersistBits, CoreRegs.setPersist, BitVec.and_assoc]

theorem armBits_twice (k : CoreRegs c) (m : BitVec c.ovW) : (k.armBits m).armBits m = k.armBits m := by
  simp [CoreRegs.armBits, CoreRegs.setOneshot, BitVec.or_assoc]

theorem consume_twice (k : CoreRegs c) (r : Row) : (k.consume r).consume r = k.consume r := by
  simp [consume_eq, BitVec.and_assoc]

/-! ### The decoder -/

/-- BYTE at phase 0 (rule R70, corner case (a)). -/
theorem receiveByte_first (k : CoreRegs c) (d : Byte) (h : k.phase = 0) :
    k.receiveByte d = { k with
      buf0 := d, phase := 1
      pout := if c.clearOnByte then k.pout &&& ~~~lineMask c else k.pout } := by
  cases hc : c.clearOnByte <;>
    simp [CoreRegs.receiveByte, hc, h, CoreRegs.clearLines, CoreRegs.writeBuf, CoreRegs.setPhase, CoreRegs.setPout,
      phaseNext, completesFrame]

/-- BYTE at phase 1 (rule R70, corner case (b)). -/
theorem receiveByte_second (k : CoreRegs c) (d : Byte) (h : k.phase = 1) :
    k.receiveByte d = ({ k with
      buf1 := d, phase := 0
      pout := if c.clearOnByte then k.pout &&& ~~~lineMask c else k.pout } : CoreRegs c).complete := by
  cases hc : c.clearOnByte <;>
    simp [CoreRegs.receiveByte, hc, h, CoreRegs.clearLines, CoreRegs.writeBuf, CoreRegs.setPhase, CoreRegs.setPout,
      phaseNext, completesFrame]

/-- The row of a frame is decided by its first byte (rule R31). -/
theorem rowOf_frameOf (a b : Byte) : rowOf (frameOf a b) = if a.getLsbD 7 then .row3 else if a.getLsbD 6 then .row2 else .row1 := by
  simp only [rowOf, frameOf, row3Bit, row2Bit, BitVec.getLsbD_append]; rfl

/-- The first byte is the high half (rule R31). -/
theorem toNat_frameOf (a b : Byte) : (frameOf a b).toNat = 256 * a.toNat + b.toNat := by
  have ht := b.isLt
  rw [frameOf, BitVec.toNat_append, ← Nat.shiftLeft_add_eq_or_of_lt ht, Nat.shiftLeft_eq]; omega

/-- The whole effect of BYTE at phase 1; CLEAR_ON_BYTE leaves no trace (rules R70, R73). -/
theorem receiveByte_second_eq (k : CoreRegs c) (d : Byte) (hp : k.phase = 1) : k.receiveByte d = 
   { k with buf1 := d, phase := 0, frame := frameOf k.buf0 d, 
            pout := (k.pout &&& ~~~lineMask c) ||| linePattern c (ovmux c (rowOf (frameOf k.buf0 d)) k.persist k.oneshot),
            oneshot := k.oneshot &&& ~~~rowMask c (rowOf (frameOf k.buf0 d)) } := by
  rw [receiveByte_second k d hp, complete_eq, engine_eq]
  cases hc : c.clearOnByte
  · simp
  · simp [BitVec.and_assoc]

/-- BIT that completes no byte (rule R72). -/
theorem receiveBit_inside (k : CoreRegs c) (b : Bit) (h : k.bitcnt ≠ 7) :
    k.receiveBit b = { k with sr := shiftIn c.msbFirst k.sr b, bitcnt := k.bitcnt + 1 } := by
  have h0 : ∀ n : BitVec 3, n ≠ 7 → n + 1 ≠ 0 := by decide
  have := h0 _ h
  simp [CoreRegs.receiveBit, CoreRegs.setSr, CoreRegs.setBitcnt, bitcntNext, completesByte]
  exact fun h' => absurd h' this

/-- BIT that completes a byte (rule R72). -/
theorem receiveBit_last (k : CoreRegs c) (b : Bit) (h : k.bitcnt = 7) :
    k.receiveBit b =
      ({ k with sr := shiftIn c.msbFirst k.sr b, bitcnt := 0 } : CoreRegs c).receiveByte (shiftIn c.msbFirst k.sr b) := by
  simp [CoreRegs.receiveBit, CoreRegs.setSr, CoreRegs.setBitcnt, bitcntNext, completesByte, h]

/-! ### The resync monitor -/

theorem resync_eq (k : CoreRegs c) : k.resync = { k with phase := 0 } := by
  unfold CoreRegs.resync
  rcases bit_zero_or_one k.phase with h | h <;> rw [h]
  · cases k; simp_all
  · simp [CoreRegs.setPhase]

theorem observeFv_eq (k : CoreRegs c) (l : Bit) :
    k.observeFv l = if l = k.fvQ then k else { k with phase := 0, fvQ := l } := by
  by_cases h : l = k.fvQ
  · subst h; simp [CoreRegs.observeFv, isTransition, CoreRegs.setFvQ]
  · simp [CoreRegs.observeFv, isTransition, CoreRegs.setFvQ, resync_eq, h]

end Sys2Proof.Machine
end

