-- ==== Sys2Proof/Laws/PerInstr.lean ====
section
/-! SUPPORT. A property of every instruction as syntax, one lemma per constructor: a well-formed operation is encoded in
exactly the bits its port has (rules R50, R51, R53, R55). -/

namespace Sys2Proof.Laws.EncodedWordFits

/-- The encoded word fits its port's format. -/
def Statement (i : Instr) : Prop :=
  ∀ (cfg : Config) (e : Event), i.wf cfg = true → encode i = some e → e.word < 2 ^ portWidth cfg e.port

/-- An operation with a fixed request word. -/
theorem of_request {i : Instr} {w : Nat} (hi : encode i = some ⟨.command, w⟩) (hw : w < 2 ^ 16) : Statement i := by
  intro cfg e _ he
  rw [hi] at he
  cases he
  exact hw

/-- An internal action, which has no encoding. -/
theorem of_internal {i : Instr} (hi : encode i = none) : Statement i := by
  intro cfg e _ he
  rw [hi] at he
  cases he

/-- A request made of a command byte and a target byte. -/
theorem request_fits (c t : Byte) : c.toNat * 256 + t.toNat < 2 ^ 16 := by
  have := c.isLt
  have := t.isLt
  omega

theorem ra : Statement .ra := of_request rfl (by decide)
theorem rw : Statement .rw := of_request rfl (by decide)
theorem rs : Statement .rs := of_request rfl (by decide)
theorem r1 : Statement .r1 := of_request rfl (by decide)
theorem r2 : Statement .r2 := of_request rfl (by decide)
theorem r3 : Statement .r3 := of_request rfl (by decide)
theorem r4 : Statement .r4 := of_request rfl (by decide)
theorem r5 : Statement .r5 := of_request rfl (by decide)
theorem r6 : Statement .r6 := of_request rfl (by decide)
theorem s1 : Statement .s1 := of_request rfl (by decide)
theorem s2 : Statement .s2 := of_request rfl (by decide)
theorem s3 : Statement .s3 := of_request rfl (by decide)
theorem s4 : Statement .s4 := of_request rfl (by decide)
theorem s5 : Statement .s5 := of_request rfl (by decide)
theorem s6 : Statement .s6 := of_request rfl (by decide)
theorem u1 : Statement .u1 := of_request rfl (by decide)
theorem u2 : Statement .u2 := of_request rfl (by decide)
theorem u3 : Statement .u3 := of_request rfl (by decide)
theorem u4 : Statement .u4 := of_request rfl (by decide)
theorem u5 : Statement .u5 := of_request rfl (by decide)
theorem u6 : Statement .u6 := of_request rfl (by decide)
theorem p1 : Statement .p1 := of_request rfl (by decide)
theorem p2 : Statement .p2 := of_request rfl (by decide)
theorem p3 : Statement .p3 := of_request rfl (by decide)
theorem p4 : Statement .p4 := of_request rfl (by decide)
theorem p5 : Statement .p5 := of_request rfl (by decide)
theorem en : Statement .en := of_request rfl (by decide)
theorem ds : Statement .ds := of_request rfl (by decide)
theorem unhandled (c t : Byte) : Statement (.unhandled c t) := of_request rfl (request_fits c t)
theorem unknown (c t : Byte) : Statement (.unknown c t) := of_request rfl (request_fits c t)
theorem byte (d : Byte) : Statement (.byte d) := by
  intro cfg e _ he
  cases he
  exact d.isLt
theorem bit (b : Bit) : Statement (.bit b) := by
  intro cfg e _ he
  cases he
  exact b.isLt
theorem fv (l : Bit) : Statement (.fv l) := by
  intro cfg e _ he
  cases he
  exact l.isLt
theorem tick (a : Bit) : Statement (.tick a) := by
  intro cfg e _ he
  cases he
  exact a.isLt
theorem reset : Statement .reset := by
  intro cfg e _ he
  cases he
  exact Nat.one_pos
theorem setp (m : Nat) : Statement (.setp m) := by
  intro cfg e hw he
  cases he
  exact of_decide_eq_true hw
theorem clrp (m : Nat) : Statement (.clrp m) := by
  intro cfg e hw he
  cases he
  exact of_decide_eq_true hw
theorem arm (m : Nat) : Statement (.arm m) := by
  intro cfg e hw he
  cases he
  exact of_decide_eq_true hw
theorem rdp : Statement .rdp := by
  intro cfg e _ he
  cases he
  exact Nat.one_pos
theorem rdch (m : Nat) : Statement (.rdch m) := by
  intro cfg e hw he
  cases he
  exact of_decide_eq_true hw
theorem rdf : Statement .rdf := by
  intro cfg e _ he
  cases he
  exact Nat.one_pos
theorem drvmode (v : Bit) : Statement (.drvmode v) := by
  intro cfg e _ he
  cases he
  exact v.isLt
theorem complete : Statement .complete := of_internal rfl
theorem engine : Statement .engine := of_internal rfl
theorem rowsel (f : Frame) : Statement (.rowsel f) := of_internal rfl
theorem ovmux (r : Row) (p o : Nat) : Statement (.ovmux r p o) := of_internal rfl
theorem drive (v : BitVec 2) : Statement (.drive v) := of_internal rfl
theorem consume (r : Row) : Statement (.consume r) := of_internal rfl
theorem resync : Statement .resync := of_internal rfl
theorem char (x : Byte) : Statement (.char x) := by
  intro cfg e _ he
  cases he
  exact x.isLt

end Sys2Proof.Laws.EncodedWordFits
end

