-- ==== Sys2Proof/Tests/Slice0.lean ====
section
/-! SUPPORT. The model's own tests. Expected results are those of the spec's encodings (rules R60, R61) and of its worked
vectors (95_test_vectors.md: S<n> and V<n>; P<n> are its programs), none is the model's own answer; beside them one
witness for the hypotheses of each statement. -/

namespace Sys2Proof.Tests

open Sys2Proof.Machine

/-! ### Helpers -/

/-- CORE's registers after reset under the reference configuration. -/
def ref : CoreRegs cfgRef := coreReset cfgRef

/-- A state with the given registers, everything beside them as after reset. -/
def st (c : Config) (k : CoreRegs c) : State := ⟨c, k, adjacentReset, Output.silent, []⟩

/-- A state with the given registers and one event waiting. -/
def awaiting (c : Config) (k : CoreRegs c) (e : Event) : State := ⟨c, k, adjacentReset, Output.silent, [e]⟩

/-- The operation answers a next state that passes the check. -/
def gives (r : Result) (p : State → Bool) : Bool :=
  match r with
  | .next t => p t
  | .fault _ => false
  | .refused _ => false

/-- The operation answers a next state with this response. -/
def answers (r : Result) (v : Option Response) : Bool := gives r fun t => decide (t.out.response = v)

/-- Phase, stored bytes, frame. -/
def decoderIs (t : State) (phase b0 b1 frame : Nat) : Bool :=
  t.core.phase.toNat == phase && t.core.buf0.toNat == b0 && t.core.buf1.toNat == b1 && t.core.frame.toNat == frame

/-- Persistent bits, one-shot bits, port. -/
def overlayIs (t : State) (persist oneshot pout : Nat) : Bool :=
  t.core.persist.toNat == persist && t.core.oneshot.toNat == oneshot && t.core.pout.toNat == pout

/-- The pin pair. -/
def pinsAre (t : State) (oe lines : Nat) : Bool := (pins t).1.toNat == oe && (pins t).2.toNat == lines

/-- The other port lines of vectors that start from `pout = 0xA4` to `0xA7`. -/
def cfgA4 : Config := { cfgRef with poutOtherReset := 0xA4 }

/-- Program P6's configuration, another legal one. -/
def cfgP6 : Config :=
  { cfgRef with rowShift1 := 2, rowShift2 := 0, chBit1 := 0, chBit2 := 1, chBit3 := 2, outShift := 3,
                poutOtherReset := 0xC5, driveEnReset := 1, rdchNormalised := false }

/-- The last legal corner of rule R7's bounds: OV_W 6, PORT_W 2, both full. -/
def cfgTight : Config :=
  { cfgRef with ovW := 6, portW := 2, poutOtherReset := 0 }

/-! ### Configurations (rule R7) -/

theorem test_reference_configuration_is_legal : ConfigValid cfgRef := by decide
theorem test_p6_configuration_is_legal : ConfigValid cfgP6 := by decide
theorem test_tight_configuration_is_legal : ConfigValid cfgTight := by decide
theorem test_overlapping_rows_are_illegal : ¬ ConfigValid { cfgRef with rowShift2 := 1 } := by decide
theorem test_line_past_the_port_is_illegal : ¬ ConfigValid { cfgRef with outShift := 7 } := by decide
/-- Rule R8's derived masks. -/
theorem test_reference_masks :
    Row.all.map (fun r => (rowMask cfgRef r).toNat) = [0x03, 0x0C, 0x30] ∧ (lineMask cfgRef).toNat = 0x03 ∧
    Channel.all.map (fun n => (chMask cfgRef n).toNat) = [0x02, 0x04, 0x08, 0x10, 0x20] := by decide
/-- P6's derived masks. -/
theorem test_p6_masks :
    Row.all.map (fun r => (rowMask cfgP6 r).toNat) = [0x0C, 0x03, 0x30] ∧ (lineMask cfgP6).toNat = 0x18 ∧
    Channel.all.map (fun n => (chMask cfgP6 n).toNat) = [0x01, 0x02, 0x04, 0x10, 0x20] := by decide

/-! ### WellFormed: an ill-formed term for each check -/

theorem test_wf_setp_mask : Instr.wf cfgRef (.setp 256) = false := by decide
theorem test_wf_clrp_mask : Instr.wf cfgRef (.clrp 256) = false := by decide
theorem test_wf_arm_mask : Instr.wf cfgTight (.arm 64) = false := by decide
theorem test_wf_rdch_mask : Instr.wf cfgRef (.rdch 1000) = false := by decide
theorem test_wf_ovmux_persist : Instr.wf cfgRef (.ovmux .row1 256 0) = false := by decide
theorem test_wf_ovmux_oneshot : Instr.wf cfgRef (.ovmux .row1 0 256) = false := by decide
/-- A listed request is not unhandled: RA, R6, S6, U1, P5, EN, DS. -/
theorem test_wf_unhandled_listed :
    [(0x52, 0x41), (0x52, 0x36), (0x53, 0x36), (0x55, 0x31), (0x50, 0x35), (0x45, 0x4E), (0x44, 0x53)].all
      (fun p => !Instr.wf cfgRef (.unhandled p.1 p.2)) = true := by decide
/-- X is no command letter, so X1 is unknown, not unhandled. -/
theorem test_wf_unhandled_unknown_letter : Instr.wf cfgRef (.unhandled 0x58 0x31) = false := by decide
/-- R S U P E D are known letters. -/
theorem test_wf_unknown_known_letter :
    [0x52, 0x53, 0x55, 0x50, 0x45, 0x44].all (fun c => !Instr.wf cfgRef (.unknown c 0x31)) = true := by decide
theorem test_wf_accepts :
    Instr.wf cfgRef (.setp 255) = true ∧ Instr.wf cfgRef (.unhandled 0x50 0x36) = true ∧
    Instr.wf cfgRef (.unknown 0x73 0x33) = true := by decide

/-! ### Decoding: each constructor's word, from rule R60's letters by rule R59's codes, first byte high (rule R55) -/

theorem test_decode_read_requests :
    decodeTableWord 16 0b0101001001000001 = some .ra ∧
    decodeTableWord 16 0b0101001001010111 = some .rw ∧
    decodeTableWord 16 0b0101001001010011 = some .rs ∧
    decodeTableWord 16 0b0101001000110001 = some .r1 ∧
    decodeTableWord 16 0b0101001000110010 = some .r2 ∧
    decodeTableWord 16 0b0101001000110011 = some .r3 ∧
    decodeTableWord 16 0b0101001000110100 = some .r4 ∧
    decodeTableWord 16 0b0101001000110101 = some .r5 ∧
    decodeTableWord 16 0b0101001000110110 = some .r6 := by decide

theorem test_decode_set_requests :
    decodeTableWord 16 0b0101001100110001 = some .s1 ∧
    decodeTableWord 16 0b0101001100110010 = some .s2 ∧
    decodeTableWord 16 0b0101001100110011 = some .s3 ∧
    decodeTableWord 16 0b0101001100110100 = some .s4 ∧
    decodeTableWord 16 0b0101001100110101 = some .s5 ∧
    decodeTableWord 16 0b0101001100110110 = some .s6 := by decide

theorem test_decode_clear_requests :
    decodeTableWord 16 0b0101010100110001 = some .u1 ∧
    decodeTableWord 16 0b0101010100110010 = some .u2 ∧
    decodeTableWord 16 0b0101010100110011 = some .u3 ∧
    decodeTableWord 16 0b0101010100110100 = some .u4 ∧
    decodeTableWord 16 0b0101010100110101 = some .u5 ∧
    decodeTableWord 16 0b0101010100110110 = some .u6 := by decide

theorem test_decode_arm_requests :
    decodeTableWord 16 0b0101000000110001 = some .p1 ∧
    decodeTableWord 16 0b0101000000110010 = some .p2 ∧
    decodeTableWord 16 0b0101000000110011 = some .p3 ∧
    decodeTableWord 16 0b0101000000110100 = some .p4 ∧
    decodeTableWord 16 0b0101000000110101 = some .p5 := by decide

theorem test_decode_mode_requests :
    decodeTableWord 16 0b0100010101001110 = some .en ∧
    decodeTableWord 16 0b0100010001010011 = some .ds := by decide

/-- V83 to V85: P6, R9, R7, RX, ES, DN, SA, UW. -/
theorem test_decode_unhandled :
    [(0x50, 0x36), (0x52, 0x39), (0x52, 0x37), (0x52, 0x58), (0x45, 0x53), (0x44, 0x4E), (0x53, 0x41), (0x55, 0x57)].all
      (fun p => decide (decodeCommand p.1 p.2 = .unhandled p.1 p.2)) = true ∧
    decodeTableWord 16 0b0101000000110110 = some (.unhandled 0x50 0x36) := by decide

/-- V86 to V88: X1, s3, 1S. -/
theorem test_decode_unknown :
    decodeTableWord 16 0b0101100000110001 = some (.unknown 0x58 0x31) ∧
    decodeTableWord 16 0b0111001100110011 = some (.unknown 0x73 0x33) ∧
    decodeTableWord 16 0b0011000101010011 = some (.unknown 0x31 0x53) := by decide

/-- The events of the other ports, bit by bit (rules R51, R53, R72, R88, R90, R105, R134, R160). -/
theorem test_decode_events :
    decodeTableWord 8 0b10000001 = some (.byte 0x81) ∧
    decode cfgRef ⟨.bus, 0b01000000⟩ = .byte 0x40 ∧
    decode cfgRef ⟨.serial, 0b1⟩ = .bit 1 ∧
    decode cfgRef ⟨.frameValid, 0b1⟩ = .fv 1 ∧
    decode cfgRef ⟨.alarm, 0b1⟩ = .tick 1 ∧
    decode cfgRef ⟨.resetLine, 0⟩ = .reset ∧
    decode cfgRef ⟨.stream, 0b00001101⟩ = .char 0x0D := by decide

theorem test_decode_store_calls :
    decode cfgRef ⟨.setp, 0b00110000⟩ = .setp 0x30 ∧
    decode cfgRef ⟨.clrp, 0b00010000⟩ = .clrp 0x10 ∧
    decode cfgRef ⟨.arm, 0b00001000⟩ = .arm 0x08 ∧
    decode cfgRef ⟨.rdch, 0b10000000⟩ = .rdch 0x80 ∧
    decode cfgRef ⟨.rdp, 0⟩ = .rdp ∧
    decode cfgRef ⟨.rdf, 0⟩ = .rdf ∧
    decode cfgRef ⟨.drvmode, 0b0⟩ = .drvmode 0 := by decide

/-- Internal actions have no event (rules R71, R80, R91). -/
theorem test_internal_actions_have_no_event :
    [Instr.complete, .engine, .rowsel 0, .ovmux .row1 0 0, .drive 0, .consume .row1, .resync].all
      (fun i => (encode i).isNone) = true := by decide

/-- A word of the table runs as the first operation after reset: S4 sets bit 4 of persist (V75). -/
theorem test_step_runs_first_word :
    gives (step (State.reset.withFetchWord 16 0x5334)) (fun t => overlayIs t 0x10 0 0 && t.inbox.isEmpty) = true := by decide

/-- With nothing waiting the machine idles. -/
theorem test_step_idles : step State.reset = .next State.reset := rfl

/-! ### The frame decoder -/

theorem test_byte_first_v1 :
    gives (exec (.byte 0xFF) (st cfgRef { ref with frame := 0x1234 })) (fun t =>
      decoderIs t 1 0xFF 0x00 0x1234 && overlayIs t 0 0 0) = true := by decide

theorem test_byte_second_v35 :
    gives (exec (.byte 0xFF) (st cfgA4 { coreReset cfgA4 with
      phase := 1, buf0 := 0x3F, pout := 0xA7, persist := 0x0C, oneshot := 0x31 })) (fun t =>
      decoderIs t 0 0x3F 0xFF 0x3FFF && overlayIs t 0x0C 0x30 0xA5) = true := by decide

/-- S2's three rows. -/
theorem test_engine_all_rows_s2 :
    [(0x8000, 0x09, 0xA6), (0x4000, 0x01, 0xA7), (0x0000, 0x08, 0xA5)].all (fun p =>
      gives (exec .engine (st cfgA4 { coreReset cfgA4 with
        frame := BitVec.ofNat 16 p.1, persist := 0x24, oneshot := 0x09, pout := 0xA4 })) (fun t =>
        overlayIs t 0x24 p.2.1 p.2.2)) = true := by decide

/-- V41: another line position. -/
theorem test_engine_shifted_lines_v41 :
    gives (exec .engine (st cfgP6 { coreReset cfgP6 with frame := 0x8000, persist := 0x20, pout := 0xC5 })) (fun t =>
      overlayIs t 0x20 0 0xD5) = true := by decide

theorem test_complete_v4 :
    gives (exec .complete (st cfgRef { ref with buf0 := 0x80, buf1 := 0x01, persist := 0x30 })) (fun t =>
      decoderIs t 0 0x80 0x01 0x8001 && overlayIs t 0x30 0 0x03) = true := by decide

/-- V5: a row flag in the second byte is no row flag. -/
theorem test_complete_second_byte_flag_v5 :
    gives (exec .complete (st cfgRef { ref with buf0 := 0x01, buf1 := 0x80, persist := 0x30 })) (fun t =>
      decoderIs t 0 0x01 0x80 0x0180 && overlayIs t 0x30 0 0) = true := by decide

/-- V7: the clearing reading at a first byte. -/
theorem test_clear_on_byte_first_v7 :
    gives (exec (.byte 0x80) (st ({ cfgA4 with clearOnByte := true })
      { coreReset { cfgA4 with clearOnByte := true } with pout := 0xA7 })) (fun t =>
      t.core.pout.toNat == 0xA4 && t.core.phase.toNat == 1) = true := by decide

/-- V8: the clearing reading at a second byte. -/
theorem test_clear_on_byte_second_v8 :
    gives (exec (.byte 0x00) (st ({ cfgA4 with clearOnByte := true })
      { coreReset { cfgA4 with clearOnByte := true } with phase := 1, buf0 := 0x80, persist := 0x30, pout := 0xA7 }))
      (fun t => t.core.pout.toNat == 0xA7) = true := by decide

/-- V10's first bit and V12's: which end a bit enters at. -/
theorem test_bit_enters_v10_v12 :
    gives (exec (.bit 1) (st cfgRef ref)) (fun t => t.core.sr.toNat == 0x01 && t.core.bitcnt.toNat == 1 &&
      t.core.phase.toNat == 0) = true ∧
    gives (exec (.bit 1) (st ({ cfgRef with msbFirst := false }) (coreReset { cfgRef with msbFirst := false })))
      (fun t => t.core.sr.toNat == 0x80 && t.core.bitcnt.toNat == 1) = true := by decide

/-- V11's last bit: BYTE 0x01 at phase 1 completes 0x8001. -/
theorem test_bit_completes_byte_v11 :
    gives (exec (.bit 1) (st cfgRef { ref with sr := 0x00, bitcnt := 7, phase := 1, buf0 := 0x80 })) (fun t =>
      decoderIs t 0 0x80 0x01 0x8001 && t.core.sr.toNat == 0x01 && t.core.bitcnt.toNat == 0) = true := by decide

/-! ### The engine's parts -/

/-- V16 to V24. -/
theorem test_rowsel_v16_v24 :
    [(0x8000, Row.row3), (0x4000, .row2), (0xC000, .row3), (0x0000, .row1), (0x3FFF, .row1), (0x2000, .row1),
     (0xFFFF, .row3), (0x7FFF, .row2), (0xBFFF, .row3)].all (fun p =>
      gives (exec (.rowsel (BitVec.ofNat 16 p.1)) (st cfgRef ref)) (fun t => decide (t.out.result = some (.row p.2)))) = true := by
  decide

/-- V25 to V31. -/
theorem test_ovmux_v25_v31 :
    [(Row.row3, 0x30, 0x00, 3), (.row3, 0x10, 0x20, 3), (.row3, 0x10, 0x10, 1), (.row2, 0xC3, 0x00, 0),
     (.row2, 0x00, 0x04, 1), (.row1, 0x02, 0x00, 2), (.row1, 0x01, 0x00, 1)].all (fun p =>
      gives (exec (.ovmux p.1 p.2.1 p.2.2.1) (st cfgRef ref)) (fun t =>
        decide (t.out.result = some (.slice (BitVec.ofNat 2 p.2.2.2))))) = true := by decide

/-- V32, V33 on every row. -/
theorem test_ovmux_v32_v33 :
    Row.all.all (fun r =>
      gives (exec (.ovmux r 0xFF 0xFF) (st cfgRef ref)) (fun t => decide (t.out.result = some (.slice 3))) &&
      gives (exec (.ovmux r 0 0) (st cfgRef ref)) (fun t => decide (t.out.result = some (.slice 0)))) = true := by decide

/-- Rule R83's example: 0xA4 to 0xA7 and back. -/
theorem test_drive_r83 :
    gives (exec (.drive 0b11) (st cfgA4 { coreReset cfgA4 with pout := 0xA4 })) (fun t => t.core.pout.toNat == 0xA7) = true ∧
    gives (exec (.drive 0b00) (st cfgA4 { coreReset cfgA4 with pout := 0xA7 })) (fun t => t.core.pout.toNat == 0xA4) = true := by
  decide

/-- Rule R84's example. -/
theorem test_consume_r84 :
    gives (exec (.consume .row1) (st cfgRef { ref with oneshot := 0x31 })) (fun t => t.core.oneshot.toNat == 0x30) = true ∧
    gives (exec (.consume .row3) (st cfgRef { ref with oneshot := 0x30 })) (fun t => t.core.oneshot.toNat == 0x00) = true := by decide

theorem test_drvmode_v42_v43 :
    gives (exec (.drvmode 1) (st cfgRef { ref with pout := 0x03 })) (fun t => pinsAre t 1 3) = true ∧
    gives (exec (.drvmode 0) (st cfgRef { ref with pout := 0x03, driveEn := 1 })) (fun t =>
      pinsAre t 0 3 && t.core.pout.toNat == 0x03) = true := by decide

/-! ### The resync monitor -/

/-- V45 to V48. -/
theorem test_fv_v45_v48 :
    [(1, 0, 1, 0, 1), (1, 1, 0, 0, 0), (0, 0, 1, 0, 1), (1, 1, 1, 1, 1)].all (fun p =>
      gives (exec (.fv (BitVec.ofNat 1 p.2.2.1)) (st cfgRef { ref with phase := BitVec.ofNat 1 p.1, fvQ := BitVec.ofNat 1 p.2.1 }))
        (fun t => t.core.phase.toNat == p.2.2.2.1 && t.core.fvQ.toNat == p.2.2.2.2)) = true := by decide

/-- V15 and V49: nothing else changes. -/
theorem test_fv_isolated_v15_v49 :
    gives (exec (.fv 1) (st cfgRef { ref with
      phase := 1, buf0 := 0x80, frame := 0x1234, persist := 0x30, oneshot := 0x08, pout := 0x02, bitcnt := 3 })) (fun t =>
      decoderIs t 0 0x80 0x00 0x1234 && overlayIs t 0x30 0x08 0x02 && t.core.bitcnt.toNat == 3) = true := by decide

/-- V51: FV_IDLE = 1, so FV 1 after reset is no transition. -/
theorem test_fv_idle_v51 :
    gives (runOps [.reset, .byte 0x80, .fv 1] (State.resetOf { cfgRef with fvIdle := 1 })) (fun t =>
      t.core.phase.toNat == 1) = true := by decide

/-- Rule R91's example. -/
theorem test_resync_r91 :
    gives (exec .resync (st cfgRef { ref with phase := 1, buf0 := 0x80 })) (fun t => decoderIs t 0 0x80 0 0) = true ∧
    gives (exec .resync (st cfgRef ref)) (fun t => decoderIs t 0 0 0 0) = true := by decide

/-! ### The overlay store -/

/-- V52 to V55. -/
theorem test_setp_v52_v55 :
    [(0x10, 0x20, 0x30), (0x30, 0x20, 0x30), (0x30, 0x00, 0x30), (0x00, 0xC1, 0xC1)].all (fun p =>
      gives (exec (.setp p.2.1) (st cfgRef { ref with persist := BitVec.ofNat 8 p.1 })) (fun t => overlayIs t p.2.2 0 0)) = true := by
  decide

/-- V56 to V58. -/
theorem test_clrp_v56_v58 :
    gives (exec (.clrp 0x10) (st cfgRef { ref with persist := 0x30 })) (fun t => overlayIs t 0x20 0 0) = true ∧
    gives (exec (.clrp 0x10) (st cfgRef { ref with persist := 0x20 })) (fun t => overlayIs t 0x20 0 0) = true ∧
    gives (exec (.clrp 0x08) (st cfgRef { ref with persist := 0x08, oneshot := 0x08 })) (fun t => overlayIs t 0 0x08 0) = true := by
  decide

/-- V59 to V61. -/
theorem test_arm_v59_v61 :
    [(0x00, 0x08, 0x08), (0x08, 0x08, 0x08), (0x08, 0x04, 0x0C)].all (fun p =>
      gives (exec (.arm p.2.1) (st cfgRef { ref with oneshot := BitVec.ofNat 8 p.1 })) (fun t => overlayIs t 0 p.2.2 0)) = true := by
  decide

theorem test_rdp_v62 :
    answers (exec .rdp (st cfgRef { ref with persist := 0x30, oneshot := 0x08 })) (some (.hex 8 0x30)) = true := by decide

/-- V63, V64 under both forms of the response. -/
theorem test_rdch_v63_v64 :
    answers (exec (.rdch 0x08) (st cfgRef { ref with persist := 0x08 })) (some (.hex 1 1)) = true ∧
    answers (exec (.rdch 0x04) (st cfgRef { ref with persist := 0x08 })) (some (.hex 1 0)) = true ∧
    answers (exec (.rdch 0x08) (st cfgRef { ref with oneshot := 0x08 })) (some (.hex 1 0)) = true := by decide

theorem test_rdch_in_place_v63 :
    answers (exec (.rdch 0x08) (st cfgP6 { coreReset cfgP6 with persist := 0x08 })) (some (.hex 8 0x08)) = true ∧
    answers (exec (.rdch 0x04) (st cfgP6 { coreReset cfgP6 with persist := 0x08 })) (some (.hex 8 0x00)) = true := by decide

theorem test_rdf_v65_v66 :
    answers (exec .rdf (st cfgRef ref)) (some (.hex 16 0x0000)) = true ∧
    answers (exec .rdf (st cfgRef { ref with frame := 0x4000, phase := 1, buf0 := 0x80 })) (some (.hex 16 0x4000)) = true := by decide

/-! ### The command port -/

theorem test_ra_v67 : answers (exec .ra (st cfgRef { ref with frame := 0x4000 })) (some (.hex 16 0x4000)) = true := by decide
/-- Rule R108's example. -/
theorem test_rw_r108 : answers (exec .rw (st cfgRef { ref with persist := 0x30 })) (some (.hex 8 0x30)) = true := by decide
/-- Rule R130's example and V69. -/
theorem test_rs_r130 :
    answers (exec .rs ⟨cfgRef, ref, { adjacentReset with auxAlarm := 1 }, Output.silent, []⟩) (some (.hex 1 1)) = true ∧
    answers (exec .rs (st cfgRef ref)) (some (.hex 1 0)) = true := by decide

/-- Only channel n's own bit is read: from 0b1010 in persist, and V70 from zero. -/
theorem test_read_channels :
    [(Instr.r1, 1), (.r2, 0), (.r3, 1), (.r4, 0), (.r5, 0)].all (fun p =>
      answers (exec p.1 (st cfgRef { ref with persist := 0x0A })) (some (.hex 1 (BitVec.ofNat 1 p.2)))) = true ∧
    [Instr.r1, .r2, .r3, .r4, .r5].all (fun i => answers (exec i (st cfgRef ref)) (some (.hex 1 0))) = true := by decide

/-- Program P6, steps 5 and 6: the bit in place. -/
theorem test_read_channels_p6 :
    answers (exec .r3 (st cfgP6 { coreReset cfgP6 with persist := 0x04 })) (some (.hex 8 0x04)) = true ∧
    answers (exec .r1 (st cfgP6 { coreReset cfgP6 with persist := 0x04 })) (some (.hex 8 0x00)) = true := by decide

/-- Rule R131's example and V71. -/
theorem test_r6_r131 :
    answers (exec .r6 ⟨cfgRef, ref, { adjacentReset with auxEnable := 1 }, Output.silent, []⟩) (some (.hex 1 1)) = true ∧
    answers (exec .r6 (st cfgRef ref)) (some (.hex 1 0)) = true := by decide

/-- V72 to V76. -/
theorem test_set_channels_v72_v76 :
    [(Instr.s1, 0x02), (.s2, 0x04), (.s3, 0x08), (.s4, 0x10), (.s5, 0x20)].all (fun p =>
      gives (exec p.1 (st cfgRef ref)) (fun t => overlayIs t p.2 0 0 && decide (t.out.response = none))) = true := by decide

/-- V77, V79: the flag, not the pin. -/
theorem test_aux_enable_v77_v79 :
    gives (exec .s6 (st cfgRef ref)) (fun t => t.adj.auxEnable.toNat == 1 && t.adj.enablePin.toNat == 0) = true ∧
    gives (exec .u6 ⟨cfgRef, ref, { adjacentReset with auxEnable := 1, enablePin := 1 }, Output.silent, []⟩)
      (fun t => t.adj.auxEnable.toNat == 0 && t.adj.enablePin.toNat == 1) = true := by decide

/-- V78. -/
theorem test_clear_channels_v78 :
    [(Instr.u1, 0x3C), (.u2, 0x3A), (.u3, 0x36), (.u4, 0x2E), (.u5, 0x1E)].all (fun p =>
      gives (exec p.1 (st cfgRef { ref with persist := 0x3E })) (fun t => overlayIs t p.2 0 0)) = true := by decide

/-- V80. -/
theorem test_arm_channels_v80 :
    [(Instr.p1, 0x02), (.p2, 0x04), (.p3, 0x08), (.p4, 0x10), (.p5, 0x20)].all (fun p =>
      gives (exec p.1 (st cfgRef ref)) (fun t => overlayIs t 0 p.2 0 && decide (t.out.response = none))) = true := by decide

theorem test_en_v81 :
    gives (exec .en (st cfgRef ref)) (fun t => t.core.driveEn.toNat == 1 && decide (t.out.response = some .textDriven)) = true := by
  decide

theorem test_ds_v82 :
    gives (exec .ds (st cfgRef { ref with driveEn := 1 })) (fun t =>
      t.core.driveEn.toNat == 0 && decide (t.out.response = some .textSensed)) = true := by decide

theorem test_fallback_texts_v83_v86 :
    gives (exec (.unhandled 0x50 0x36) (st cfgRef ref)) (fun t =>
      decide (t.out.response.bind wording = some "Unhandled statement") && overlayIs t 0 0 0) = true ∧
    gives (exec (.unknown 0x58 0x31) (st cfgRef ref)) (fun t =>
      decide (t.out.response.bind wording = some "Unknown command") && overlayIs t 0 0 0) = true := by decide

/-- V90: S, CR, LF, 4 is S4; every byte is echoed (rule R117). -/
theorem test_char_terminators_v90 :
    gives (runOps [.char 0x53, .char 0x0D, .char 0x0A, .char 0x34] (st cfgRef ref)) (fun t =>
      overlayIs t 0x10 0 0 && decide (t.adj.pend = none ∧ t.out.echo = some 0x34)) = true := by decide

/-- V91: the same under TERM_CLEARS_PENDING; 4R is unknown and W stays pending. -/
theorem test_char_terminators_v91 :
    gives (runOps [.char 0x53, .char 0x0D, .char 0x0A, .char 0x34, .char 0x52]
        (State.resetOf { cfgRef with termClearsPending := true }))
      (fun t => decide (t.out.response = some .textUnknown ∧ t.adj.pend = none) && overlayIs t 0 0 0) = true := by decide

/-- The handler table and the decoder's table say the same of each request of rule R60. -/
theorem test_handlers_cover_the_command_table :
    handlers.map Prod.fst = commandTable.map Prod.fst := by decide

/-- V95: TICK. -/
theorem test_tick_v95 :
    gives (exec (.tick 1) ⟨cfgRef, ref, { adjacentReset with auxEnable := 1 }, Output.silent, []⟩) (fun t =>
      t.adj.auxAlarm.toNat == 1 && t.adj.enablePin.toNat == 1 && t.adj.auxEnable.toNat == 1) = true ∧
    gives (exec (.tick 0) ⟨cfgRef, ref, { adjacentReset with auxAlarm := 1, enablePin := 1 }, Output.silent, []⟩) (fun t =>
      t.adj.auxAlarm.toNat == 0 && t.adj.enablePin.toNat == 0) = true := by decide

/-! ### Reset -/

theorem test_reset_v96 :
    gives (exec .reset (st cfgRef { ref with
      phase := 1, buf0 := 0x80, buf1 := 0x12, frame := 0xBEEF, persist := 0x3E, oneshot := 0x2A, pout := 0x03,
      driveEn := 1, fvQ := 1, sr := 0x55, bitcnt := 5 })) (fun t =>
      decoderIs t 0 0 0 0 && overlayIs t 0 0 0 && pinsAre t 0 0 && t.core.fvQ.toNat == 0 && t.core.sr.toNat == 0 &&
      t.core.bitcnt.toNat == 0) = true := by decide

theorem test_reset_v97 :
    gives (exec .reset (State.resetOf { cfgRef with poutOtherReset := 0xFF, driveEnReset := 1, fvIdle := 1 })) (fun t =>
      t.core.pout.toNat == 0xFC && t.core.fvQ.toNat == 1 && pinsAre t 1 0) = true := by decide

/-! ### Runs -/

/-- Program P1, rows 0 and 1: RESET has its own entry, and the list's end is the end. -/
theorem test_observation_p1 :
    observeRun (st cfgRef { ref with driveEn := 1, pout := 0x03 }) [⟨.command, 0x454E⟩] =
      [((0, 0b00), none), ((1, 0b00), some .textDriven)] := by decide

/-- V97 as a run of RESET alone. -/
theorem test_observation_reset_v97 :
    observeRun (State.resetOf { cfgRef with poutOtherReset := 0xFF, driveEnReset := 1, fvIdle := 1 }) [] =
      [((1, 0b00), none)] := by decide

/-! ### Witnesses: states and operands that meet the hypotheses of each statement, one for each clause -/

/-- EveryRequestHasOneOutcome: X1, P6, S3, and the boundary letters around the known ones. -/
theorem test_witness_every_request :
    isUnknownRequest 0x58 = true ∧ isUnhandledRequest 0x50 0x36 = true ∧
    isUnknownRequest 0x53 = false ∧ isUnhandledRequest 0x53 0x33 = false ∧
    isUnknownRequest 0x51 = true ∧ isUnknownRequest 0x00 = true ∧ isUnknownRequest 0xFF = true ∧
    isUnhandledRequest 0x52 0x37 = true ∧ isUnhandledRequest 0x44 0x54 = true := by decide

/-- EncodedOperationDecodesBack: the largest mask. -/
theorem test_witness_encoded_operation :
    Instr.wf cfgRef (.setp 255) = true ∧ encode (.setp 255) = some ⟨.setp, 255⟩ ∧
    Instr.wf cfgRef (.unhandled 0x52 0x39) = true ∧ encode (.unhandled 0x52 0x39) = some ⟨.command, 0x5239⟩ := by decide

/-- DecodedEventEncodesBack: the widest words of three ports. -/
theorem test_witness_decoded_event :
    (0xFFFF < 2 ^ portWidth cfgRef .command) ∧ (0xFF < 2 ^ portWidth cfgRef .setp) ∧ (0 < 2 ^ portWidth cfgRef .rdp) := by
  decide

/-- StepRunsTheDecodedEvent: both clauses. -/
theorem test_witness_step :
    (awaiting cfgRef ref ⟨.bus, 0x80⟩).inbox = ⟨.bus, 0x80⟩ :: [] ∧ State.reset.inbox = [] := by decide

/-- ConfigurationIsNeverWritten and the idempotence clauses: operations that answer a next state. -/
theorem test_witness_next_states :
    (∃ t, exec (.setp 1) (st cfgRef ref) = .next t) ∧ (∃ t, exec (.clrp 1) (st cfgRef ref) = .next t) ∧
    (∃ t, exec (.arm 1) (st cfgRef ref) = .next t) ∧ (∃ t, exec (.consume .row1) (st cfgRef ref) = .next t) ∧
    (∃ t, exec (.fv 1) (st cfgRef ref) = .next t) ∧ (∃ t, step (awaiting cfgRef ref ⟨.arm, 0xFF⟩) = .next t) :=
  ⟨⟨_, rfl⟩, ⟨_, rfl⟩, ⟨_, rfl⟩, ⟨_, rfl⟩, ⟨_, rfl⟩, ⟨_, rfl⟩⟩

/-- ResetStateMeetsTheInvariants, last clause. -/
theorem test_witness_reset : (st cfgRef { ref with phase := 1 }).cfg = cfgRef ∧ (st cfgRef { ref with phase := 1 }).inbox = [] :=
  ⟨rfl, rfl⟩

/-- FrameReadsReturnTheLastFrame, the half-received frame; FirstByteIsStoredAndAwaitsSecond. -/
theorem test_witness_phase_zero :
    (st cfgRef { ref with frame := 0x4000 }).core.phase = 0 ∧ ∃ t, exec (.byte 0x80) (st cfgRef { ref with frame := 0x4000 }) = .next t :=
  ⟨by decide, _, rfl⟩

/-- ChannelReads and MaskedRead: both forms of the response; a masked bit that is set, one that is not. -/
theorem test_witness_response_forms :
    (st cfgRef ref).cfg.rdchNormalised = true ∧ (st cfgP6 (coreReset cfgP6)).cfg.rdchNormalised = false ∧
    (st cfgRef { ref with persist := 0x80 }).core.persist.getLsbD 7 = true ∧ Nat.testBit 0x80 7 = true ∧
    Nat.testBit 0x7F 7 = false := by decide

/-- Set, clear and arm commands: the lowest and the highest overlay bit, and the channel's own. -/
theorem test_witness_overlay_bits :
    (0 < (st cfgRef ref).cfg.ovW) ∧ (7 < (st cfgRef ref).cfg.ovW) ∧
    chBit (st cfgRef ref).cfg .ch5 = 5 ∧ (5 < (st cfgTight (coreReset cfgTight)).cfg.ovW) := by
  decide

/-- SecondByteCompletesTheFrame, DriveReplacesExactlyTwoLines: a phase of 1, and port bits at and beside the lines. -/
theorem test_witness_phase_one :
    (st cfgRef { ref with phase := 1 }).core.phase = 1 ∧ (7 < (st cfgP6 (coreReset cfgP6)).cfg.portW) ∧ cfgP6.outShift = 3 ∧
    cfgP6.outShift + 1 < cfgP6.portW := by decide

/-- RowSelectionHasFixedPriority: the frames where its clauses meet. -/
theorem test_witness_row_selection :
    32768 ≤ (0x8000 : Frame).toNat ∧ 16384 ≤ (0x7FFF : Frame).toNat ∧ (0x7FFF : Frame).toNat < 32768 ∧
    16384 ≤ (0x4000 : Frame).toNat ∧ (0x3FFF : Frame).toNat < 16384 := by decide

/-- PinsShowTheRowsEffectiveBits, ArmBesideTheCompletingByte (V99): a legal configuration, phase 1, completed runs; bits
inside a row's slice at both ends. -/
theorem test_witness_completing_byte :
    ConfigValid (st cfgRef { ref with phase := 1, buf0 := 0x40 }).cfg ∧ (st cfgRef { ref with phase := 1, buf0 := 0x40 }).core.phase = 1 ∧
    (∃ t, exec (.byte 0) (st cfgRef { ref with phase := 1, buf0 := 0x40 }) = .next t) ∧
    (∃ t, runOps [.arm 8, .byte 0] (st cfgRef { ref with phase := 1, buf0 := 0x40 }) = .next t) ∧
    (∃ u, runOps [.byte 0, .arm 8] (st cfgRef { ref with phase := 1, buf0 := 0x40 }) = .next u) ∧
    inSlice cfgRef .row2 2 = true ∧ inSlice cfgRef .row2 3 = true ∧ inSlice cfgRef .row2 4 = false :=
  ⟨by decide, by decide, ⟨_, rfl⟩, ⟨_, rfl⟩, ⟨_, rfl⟩, by decide, by decide, by decide⟩

/-- OneShotBitsShowOnOneFrame: S3's two frames. -/
theorem test_witness_one_shot :
    ConfigValid (st cfgRef { ref with oneshot := 0x08 }).cfg ∧ (st cfgRef { ref with oneshot := 0x08 }).core.phase = 0 ∧
    rowOf (frameOf 0x40 0x00) = rowOf (frameOf 0x40 0x01) ∧
    ∃ t u, runOps [.byte 0x40, .byte 0x00] (st cfgRef { ref with oneshot := 0x08 }) = .next t ∧
      runOps [.byte 0x40, .byte 0x01] t = .next u :=
  ⟨by decide, by decide, by decide, _, _, rfl, rfl⟩

/-- SourceScenarioHoldsInEveryConfiguration (S1), under P6's configuration. -/
theorem test_witness_scenario :
    ConfigValid cfgP6 ∧ (st cfgP6 { coreReset cfgP6 with persist := 0x30 }).core.phase = 0 ∧
    (st cfgP6 { coreReset cfgP6 with persist := 0x30 }).core.persist = BitVec.ofNat cfgP6.ovW 0x30 ∧
    (st cfgP6 { coreReset cfgP6 with persist := 0x30 }).core.oneshot = 0 :=
  ⟨by decide, rfl, rfl, rfl⟩

/-- BytesAlternateThePhase: an even number of bytes before the last pair. -/
theorem test_witness_bytes :
    State.reset.core.phase = 0 ∧ ([0x11, 0x22, 0x33, 0x44] : List Byte) = [0x11, 0x22] ++ [0x33, 0x44] ∧
    ([0x11, 0x22] : List Byte).length % 2 = 0 := by decide

/-- BitIsShiftedInAndCounted: both sides of the eighth bit; EightBitsAreOneByte: a byte boundary. -/
theorem test_witness_bits :
    (st cfgRef { ref with bitcnt := 6 }).core.bitcnt ≠ 7 ∧ (st cfgRef { ref with bitcnt := 7 }).core.bitcnt = 7 ∧
    (st cfgRef { ref with sr := 0xFF }).core.bitcnt = 0 := by decide

/-- FrameValidTransitionResetsPhase: no transition, and both polarities of one. -/
theorem test_witness_frame_valid :
    (0 : Bit) = (st cfgRef ref).core.fvQ ∧ (1 : Bit) ≠ (st cfgRef ref).core.fvQ ∧
    (0 : Bit) ≠ (st cfgRef { ref with fvQ := 1 }).core.fvQ := by decide

/-- ResyncOnlyClearsThePhase, second clause; ResyncMonitorIsIsolated: two states that differ in all but phase and fv_q. -/
theorem test_witness_resync :
    (st cfgRef ref).core.phase = 0 ∧
    (st cfgP6 { coreReset cfgP6 with phase := 1, frame := 0xBEEF }).core.phase = (st cfgRef { ref with phase := 1 }).core.phase ∧
    (st cfgP6 { coreReset cfgP6 with phase := 1, frame := 0xBEEF }).core.fvQ = (st cfgRef { ref with phase := 1 }).core.fvQ := by decide

/-- The three kinds of command-stream byte, and TerminatorsAreIgnoredInTheStream. -/
theorem test_witness_stream :
    isTerminator 0x0D = true ∧ isTerminator 0x0A = true ∧ (st cfgRef ref).adj.pend = none ∧ isTerminator 0x53 = false ∧
    (⟨cfgRef, ref, { adjacentReset with pend := some 0x53 }, Output.silent, []⟩ : State).adj.pend = some 0x53 ∧
    isTerminator 0x33 = false ∧
    (st cfgRef ref).cfg.termClearsPending = false ∧
    (∀ y ∈ ([0x0D] ++ [0x0D, 0x0A] ++ [0x0A] : List Byte), isTerminator y = true) := by decide

/-- StepKeepsOtherLines: reset under P6's configuration, with an event waiting. -/
theorem test_witness_other_lines :
    OtherLinesKept (awaiting cfgP6 (coreReset cfgP6) ⟨.bus, 0x80⟩) ∧
    ∃ t, step (awaiting cfgP6 (coreReset cfgP6) ⟨.bus, 0x80⟩) = .next t := by
  refine ⟨fun i hi => ?_, _, rfl⟩
  by_cases h : i < 8
  · revert hi
    exact (by decide : ∀ j < 8, isLine cfgP6 j = false →
      (coreReset cfgP6).pout.getLsbD j = cfgP6.poutOtherReset.getLsbD j) i h
  · exact (BitVec.getLsbD_of_ge _ i (Nat.le_of_not_lt h)).trans (BitVec.getLsbD_of_ge _ i (Nat.le_of_not_lt h)).symm

/-- StepKeepsChannelBitsOnly: an ARM of a channel bit waits; one of bit 7 does not count as such an event. -/
theorem test_witness_channel_bits :
    ChannelBitsOnly (awaiting cfgRef ref ⟨.arm, 0x20⟩) ∧ channelBitsEvent cfgRef ⟨.arm, 0x80⟩ = false ∧
    ∃ t, step (awaiting cfgRef ref ⟨.arm, 0x20⟩) = .next t :=
  ⟨⟨by decide, by decide, by decide⟩, by decide, _, rfl⟩

/-- The whole-machine rules over every event: an event of each agent first in the inbox. -/
theorem test_witness_events :
    (awaiting cfgRef ref ⟨.command, 0x5333⟩).inbox = ⟨.command, 0x5333⟩ :: [] ∧ Port.command.agent = .host ∧
    (awaiting cfgRef ref ⟨.serial, 1⟩).inbox = ⟨.serial, 1⟩ :: [] ∧ Port.serial.agent = .bus ∧
    (awaiting cfgRef ref ⟨.frameValid, 1⟩).inbox = ⟨.frameValid, 1⟩ :: [] ∧ Port.frameValid.agent = .fvLine ∧
    (awaiting cfgRef ref ⟨.resetLine, 0⟩).inbox = ⟨.resetLine, 0⟩ :: [] ∧ Port.resetLine.agent = .rst := by decide

/-- OneShotBitsChangeOnlyByArmAndConsume: a bit that rises, and one that falls, in one step. -/
theorem test_witness_one_shot_changes :
    gives (step (awaiting cfgRef ref ⟨.command, 0x5033⟩)) (fun t => !ref.oneshot.getLsbD 3 && t.core.oneshot.getLsbD 3) = true ∧
    gives (step (awaiting cfgRef { ref with phase := 1, buf0 := 0x40, oneshot := 0x08 } ⟨.bus, 0⟩)) (fun t =>
      !t.core.oneshot.getLsbD 3) = true := by decide

/-- PhaseChanges and FrameChanges: a step that changes each. -/
theorem test_witness_phase_and_frame_change :
    gives (step (awaiting cfgRef { ref with phase := 1 } ⟨.frameValid, 1⟩)) (fun t => t.core.phase.toNat == 0) = true ∧
    gives (step (awaiting cfgRef { ref with phase := 1, buf0 := 0x40 } ⟨.bus, 0x01⟩)) (fun t => t.core.frame.toNat == 0x4001) = true := by
  decide

/-- StaleBytesAreNeverRead: both clauses of the relation, with bytes that differ. -/
theorem test_witness_stale_bytes :
    SameButStaleBytes ref { ref with buf0 := 0xAA, buf1 := 0x55 } ∧
    SameButStaleBytes { ref with phase := 1 } { ref with phase := 1, buf1 := 0x55 } :=
  ⟨⟨rfl, by decide⟩, ⟨rfl, by decide⟩⟩

/-- ByteAndFrameValid: the level remembered, and the other; phase 0 for the literal reading of rule R147. -/
theorem test_witness_byte_and_frame_valid :
    (0 : Bit) = State.reset.core.fvQ ∧ (1 : Bit) ≠ State.reset.core.fvQ ∧ State.reset.core.phase = 0 := by decide

/-- EachChannelBelongsToOneRow: distinct rows and channels of a legal configuration. -/
theorem test_witness_layout : ConfigValid cfgRef ∧ Row.row1 ≠ Row.row3 ∧ Channel.ch1 ≠ Channel.ch5 := by decide

/-- RunObservesEachOperationOnce: two different states under one configuration. -/
theorem test_witness_run :
    (st cfgRef { ref with phase := 1 }).cfg = (st cfgRef ref).cfg ∧
    (st cfgRef { ref with phase := 1 }).core.phase ≠ (st cfgRef ref).core.phase := by decide

end Sys2Proof.Tests
end

section
/-! PROOFS. The scope (spec/00_scope.md): no operation writes the configuration, the layout of a legal configuration, and
the source's own scenario under every legal configuration. -/

namespace Sys2Proof.Machine

variable {c : Config}

/-! ### Every operation completes -/

theorem encode_of_mem_commandTable :
    ∀ p ∈ commandTable, encode p.2 = some ⟨.command, p.1.toNat⟩ := by decide

/-- A request is encoded as itself, whether it is in the table or reaches a fallback (rules R60, R61). -/
theorem encode_decodeCommand (l t : Byte) :
    encode (decodeCommand l t) = some ⟨.command, (requestWord l t).toNat⟩ := by
  obtain ⟨i, hmem, hi⟩ | hi | hi := decodeCommand_cases l t
  · rw [hi]
    exact encode_of_mem_commandTable _ hmem
  · rw [hi, toNat_requestWord]
    rfl
  · rw [hi, toNat_requestWord]
    rfl

/-- A request is never a byte of the command stream, so CHAR does not run itself again through DISPATCH (rule R106). -/
theorem decodeCommand_ne_char (l t x : Byte) : decodeCommand l t ≠ .char x := by
  intro h
  have henc := encode_decodeCommand l t
  simp [h, encode] at henc

theorem exec_completes_of_ne_char (i : Instr) (s : State) (h : ∀ x, i ≠ .char x) :
    Completes i s fun _ _ _ => True := by
  cases i
  case char x => exact absurd rfl (h x)
  all_goals exact ⟨_, _, _, rfl, trivial⟩

/-- Every operation answers a next state under the same configuration and with the same events to come (rules R7, R140). -/
theorem exec_completes (i : Instr) (s : State) : Completes i s fun _ _ _ => True := by
  by_cases hchar : ∃ x, i = .char x
  · obtain ⟨x, rfl⟩ := hchar
    cases hterm : isTerminator x
    · cases hpend : s.adj.pend with
      | none => exact ⟨_, _, _, execChar_first x s hterm hpend, trivial⟩
      | some l =>
        obtain ⟨k, a, o, hreq, -⟩ := exec_completes_of_ne_char _ s (decodeCommand_ne_char l x)
        refine ⟨k, a.setPend none, o.echoing x, ?_, trivial⟩
        calc exec (.char x) s = endRequest x (exec (decodeCommand l x) s) := execChar_second x l s hterm hpend
          _ = .next ⟨s.cfg, k, a.setPend none, o.echoing x, s.inbox⟩ := by rw [hreq]; rfl
    · exact ⟨_, _, _, execChar_terminator x s hterm, trivial⟩
  · exact exec_completes_of_ne_char i s fun x hx => hchar ⟨x, hx⟩

theorem exec_keeps_cfg_inbox {i : Instr} {s t : State} (h : exec i s = .next t) :
    t.cfg = s.cfg ∧ t.inbox = s.inbox := by
  obtain ⟨k, a, o, hk, -⟩ := exec_completes i s
  cases hk.symm.trans h
  exact ⟨rfl, rfl⟩

theorem step_keeps_cfg_tail {s t : State} (h : step s = .next t) :
    t.cfg = s.cfg ∧ t.inbox = s.inbox.tail := by
  obtain ⟨c, k, a, o, q⟩ := s
  cases q with
  | nil =>
    cases (step_empty c k a o).symm.trans h
    exact ⟨rfl, rfl⟩
  | cons e rest =>
    rw [step_cons] at h
    exact exec_keeps_cfg_inbox h

/-- Settles O9: every operation, CHAR with its request included, ends with the configuration and the inbox it began with. -/
theorem configurationIsNeverWritten : Obligations.ConfigurationIsNeverWritten :=
  ⟨fun _ _ _ => exec_keeps_cfg_inbox, fun _ _ => step_keeps_cfg_tail⟩

/-! ### The layout of a legal configuration -/

theorem row_mem_all (r : Row) : r ∈ Row.all := by cases r <;> decide

theorem channel_mem_all (n : Channel) : n ∈ Channel.all := by cases n <;> decide

theorem ConfigValid.slice_in_overlay (hc : ConfigValid c) (r : Row) : rowShift c r + 2 ≤ c.ovW := by
  obtain ⟨_, hslice, _⟩ := hc
  exact hslice r (row_mem_all r)

theorem ConfigValid.lines_in_port (hc : ConfigValid c) : c.outShift + 2 ≤ c.portW := by
  obtain ⟨_, _, _, _, _, _, _, _, _, _, _, hlines⟩ := hc
  exact hlines

theorem inSlice_iff (r : Row) (i : Nat) :
    inSlice c r i = true ↔ rowShift c r ≤ i ∧ i < rowShift c r + 2 := by
  simp [inSlice]

/-- Each overlay bit belongs to at most one row (rule R7). -/
theorem ConfigValid.row_unique (hc : ConfigValid c) {r r' : Row} {i : Nat}
    (h : inSlice c r i = true) (h' : inSlice c r' i = true) : r = r' := by
  obtain ⟨_, _, hdisjoint, _⟩ := hc
  rw [inSlice_iff] at h h'
  obtain heq | hbelow | habove := hdisjoint r (row_mem_all r) r' (row_mem_all r')
  · exact heq
  · omega
  · omega

theorem ConfigValid.chBit_injective (hc : ConfigValid c) {n n' : Channel} (h : chBit c n = chBit c n') : n = n' := by
  obtain ⟨_, _, _, hdistinct, _⟩ := hc
  exact (hdistinct n (channel_mem_all n) n' (channel_mem_all n')).resolve_right (not_not_intro h)

theorem ConfigValid.exists_row_of_channel (hc : ConfigValid c) (n : Channel) :
    ∃ r : Row, inSlice c r (chBit c n) = true := by
  obtain ⟨_, _, _, _, hrow, _⟩ := hc
  obtain ⟨r, _, hr⟩ := hrow n (channel_mem_all n)
  exact ⟨r, hr⟩

theorem ConfigValid.chBit_lt (hc : ConfigValid c) (n : Channel) : chBit c n < c.ovW := by
  obtain ⟨r, hr⟩ := hc.exists_row_of_channel n
  have hfits := hc.slice_in_overlay r
  rw [inSlice_iff] at hr
  omega

theorem rowMask_and_rowMask (hc : ConfigValid c) {r r' : Row} (h : r ≠ r') : rowMask c r &&& rowMask c r' = 0 := by
  refine BitVec.eq_of_getElem_eq fun i hi => ?_
  have hnot_both : ¬ (inSlice c r i = true ∧ inSlice c r' i = true) := fun ⟨hr, hr'⟩ => h (hc.row_unique hr hr')
  simpa using hnot_both

theorem chMask_and_chMask (hc : ConfigValid c) {n n' : Channel} (h : n ≠ n') : chMask c n &&& chMask c n' = 0 := by
  refine BitVec.eq_of_getElem_eq fun i hi => ?_
  have hnot_both : ¬ (i = chBit c n ∧ i = chBit c n') :=
    fun ⟨hn, hn'⟩ => h (hc.chBit_injective (hn.symm.trans hn'))
  simpa using hnot_both

theorem chMask_ne_zero (hc : ConfigValid c) (n : Channel) : chMask c n ≠ 0 := by
  intro h
  have hbit := getLsbD_chMask (c := c) n (chBit c n)
  simp [h, hc.chBit_lt n] at hbit

/-- A channel's mask selects its bit of a row's mask: all of the channel's mask, or nothing. -/
theorem chMask_and_rowMask (n : Channel) (r : Row) :
    chMask c n &&& rowMask c r = if inSlice c r (chBit c n) then chMask c n else 0 := by
  refine BitVec.eq_of_getElem_eq fun i hi => ?_
  by_cases hbit : i = chBit c n
  · subst hbit
    cases hrow : inSlice c r (chBit c n) <;> simp [hrow]
  · cases hrow : inSlice c r (chBit c n) <;> simp [hbit]

/-- Settles O59: an overlay bit lies in one row's slice at most, and a channel's mask is the one bit CH_BIT of it. -/
theorem eachChannelBelongsToOneRow : Obligations.EachChannelBelongsToOneRow := by
  intro c hc
  refine ⟨fun r r' => rowMask_and_rowMask hc, fun n n' => chMask_and_chMask hc, fun n => ?_⟩
  obtain ⟨r, hr⟩ := hc.exists_row_of_channel n
  refine ⟨r, ?_, chMask_ne_zero hc n, fun r' hne => ?_⟩
  · rw [chMask_and_rowMask, if_pos hr]
  · rw [chMask_and_rowMask, if_neg fun hr' => hne (hc.row_unique hr' hr)]

/-! ### A pair of bytes and the lines it drives -/

theorem runOps_bytePair (k : CoreRegs c) (a : Adjacent) (o : Output) (q : List Event) (d1 d2 : Byte) :
    runOps [.byte d1, .byte d2] ⟨c, k, a, o, q⟩ =
      .next ⟨c, (k.receiveByte d1).receiveByte d2, a, Output.silent, q⟩ := rfl

/-- The whole effect of two bytes from phase 0; CLEAR_ON_BYTE leaves no trace (rules R70, R73). -/
theorem receiveByte_pair (k : CoreRegs c) (d1 d2 : Byte) (hp : k.phase = 0) :
    (k.receiveByte d1).receiveByte d2 = { k with
      buf0 := d1, buf1 := d2, frame := frameOf d1 d2
      pout := (k.pout &&& ~~~lineMask c) ||| linePattern c (ovmux c (rowOf (frameOf d1 d2)) k.persist k.oneshot)
      oneshot := k.oneshot &&& ~~~rowMask c (rowOf (frameOf d1 d2)) } := by
  rw [receiveByte_first k d1 hp, receiveByte_second_eq _ d2 rfl]
  cases c.clearOnByte <;> simp [hp, BitVec.and_assoc]

theorem oneshot_pair_of_none_armed (k : CoreRegs c) (d1 d2 : Byte) (hp : k.phase = 0) (honeshot : k.oneshot = 0) :
    ((k.receiveByte d1).receiveByte d2).oneshot = 0 := by
  simp [receiveByte_pair k d1 d2 hp, honeshot]

/-- The lines read back what DRIVE put on them, when both lie inside the port (rules R22, R83). -/
theorem linesOf_driven (hlines : c.outShift + 2 ≤ c.portW) (p : BitVec c.portW) (v : BitVec 2) :
    linesOf c ((p &&& ~~~lineMask c) ||| linePattern c v) = v := by
  refine BitVec.eq_of_getLsbD_eq fun j hj => ?_
  rw [getLsbD_linesOf _ j hj, getLsbD_driven _ _ _ (by omega)]
  obtain rfl | rfl : j = 0 ∨ j = 1 := by omega
  · simp
  · simp

/-- Row 3's slice is at bit 4 in every configuration, so the source's 0b00110000 is row 3's mask (rules R6, R8). -/
theorem rowMask_row3 : rowMask c .row3 = BitVec.ofNat c.ovW 0x30 := by
  refine BitVec.eq_of_toNat_eq ?_
  simp [rowMask, rowShift, Nat.shiftLeft_eq]

theorem ovmux_none_armed (r : Row) (p : BitVec c.ovW) : ovmux c r p 0 = sliceOf c r p := by
  simp [ovmux]

/-- Row `r` sees both bits of its own mask and none of another row's (rules R7, R82). -/
theorem sliceOf_rowMask (hc : ConfigValid c) (r r' : Row) :
    sliceOf c r (rowMask c r') = if r = r' then 0b11 else 0b00 := by
  refine BitVec.eq_of_getLsbD_eq fun j hj => ?_
  have hfits := hc.slice_in_overlay r
  have hlt : rowShift c r + j < c.ovW := by omega
  have hown : inSlice c r (rowShift c r + j) = true := (inSlice_iff _ _).2 (by omega)
  rw [getLsbD_sliceOf _ _ j hj, getLsbD_rowMask, decide_eq_true hlt, Bool.true_and]
  by_cases hr : r = r'
  · subst hr
    rw [hown, if_pos rfl]
    obtain rfl | rfl : j = 0 ∨ j = 1 := by omega
    · rfl
    · rfl
  · have hother : inSlice c r' (rowShift c r + j) = false :=
      Bool.eq_false_iff.2 fun h => hr (hc.row_unique hown h)
    simp [hr, hother]

/-- With row 3's mask persistent and nothing armed, a pair of bytes asserts both lines when it selects row 3 and none
otherwise. -/
theorem linesOf_pair_of_row3_persistent (hc : ConfigValid c) (k : CoreRegs c) (d1 d2 : Byte) (hp : k.phase = 0)
    (hpersist : k.persist = rowMask c .row3) (honeshot : k.oneshot = 0) :
    linesOf c ((k.receiveByte d1).receiveByte d2).pout =
      if rowOf (frameOf d1 d2) = .row3 then 0b11 else 0b00 := by
  rw [receiveByte_pair k d1 d2 hp, linesOf_driven hc.lines_in_port, hpersist, honeshot,
    ovmux_none_armed, sliceOf_rowMask hc]

/-- Settles O37: 0x80 selects row 3, whose mask is the persistent value, and 0x40 selects row 2, whose slice is
disjoint from it. -/
theorem sourceScenarioHoldsInEveryConfiguration : Obligations.SourceScenarioHoldsInEveryConfiguration := by
  rintro ⟨c, k, a, o, q⟩ hc hp hpersist honeshot
  have hmask : k.persist = rowMask c .row3 := hpersist.trans rowMask_row3.symm
  have hpair := receiveByte_pair k 0x80 0x00 hp
  have hp' := (congrArg CoreRegs.phase hpair).trans hp
  have hmask' := (congrArg CoreRegs.persist hpair).trans hmask
  have honeshot' := oneshot_pair_of_none_armed k 0x80 0x00 hp honeshot
  refine ⟨_, _, runOps_bytePair k a o q 0x80 0x00, runOps_bytePair _ a _ q 0x40 0x00, ?_, ?_, ?_, ?_⟩
  · exact congrArg CoreRegs.frame hpair
  · exact linesOf_pair_of_row3_persistent hc k 0x80 0x00 hp hmask honeshot
  · exact congrArg CoreRegs.frame (receiveByte_pair _ 0x40 0x00 hp')
  · exact linesOf_pair_of_row3_persistent hc _ 0x40 0x00 hp' hmask' honeshot'

end Sys2Proof.Machine
end

section
/-! PROOFS. The state (spec/10_state.md): what an event can do to CORE's registers, said once, and from it the invariants
of rule R28, who owns which register (rule R23) and which stored bytes nobody reads (rule R11); then the pins after a
frame and the values of RESET (rules R22, R27). -/

namespace Sys2Proof.Machine

variable {c : Config}

/-! ### What a host event writes -/

/-- What a request does to CORE's registers: one overlay bit of one channel, the pin mode, or nothing (rules R107 to
R116). -/
inductive RequestWrite where
  | keep
  | set (n : Channel)
  | clear (n : Channel)
  | arm (n : Channel)
  | driveMode (v : Bit)

/-- The write of each request of rule R60; an operation that is no request is not asked for one. -/
def requestWrite : Instr → RequestWrite
  | .s1 => .set .ch1
  | .s2 => .set .ch2
  | .s3 => .set .ch3
  | .s4 => .set .ch4
  | .s5 => .set .ch5
  | .u1 => .clear .ch1
  | .u2 => .clear .ch2
  | .u3 => .clear .ch3
  | .u4 => .clear .ch4
  | .u5 => .clear .ch5
  | .p1 => .arm .ch1
  | .p2 => .arm .ch2
  | .p3 => .arm .ch3
  | .p4 => .arm .ch4
  | .p5 => .arm .ch5
  | .en => .driveMode 1
  | .ds => .driveMode 0
  | _ => .keep

/-- What any host event does to CORE's registers, in the masks of the configuration (rules R88, R95 to R97). -/
inductive HostWrite (c : Config) where
  | keep
  | set (m : BitVec c.ovW)
  | clear (m : BitVec c.ovW)
  | arm (m : BitVec c.ovW)
  | driveMode (v : Bit)

/-- The registers after a write, through the store's own operations. -/
def HostWrite.apply : HostWrite c → CoreRegs c → CoreRegs c
  | .keep, k => k
  | .set m, k => k.setPersistBits m
  | .clear m, k => k.clearPersistBits m
  | .arm m, k => k.armBits m
  | .driveMode v, k => k.setDriveEn v

/-- A request's write in the masks of configuration `c` (rule R57). -/
def RequestWrite.withMasks (c : Config) : RequestWrite → HostWrite c
  | .keep => .keep
  | .set n => .set (chMask c n)
  | .clear n => .clear (chMask c n)
  | .arm n => .arm (chMask c n)
  | .driveMode v => .driveMode v

/-- A byte of the command stream writes what the request does that it completes, if it completes one (rule R105). -/
def streamWrite (c : Config) (pend : Option Byte) (x : Byte) : HostWrite c :=
  if isTerminator x then .keep
  else
    match pend with
    | none => .keep
    | some l => (requestWrite (decodeCommand l x)).withMasks c

theorem streamWrite_terminator {pend : Option Byte} {x : Byte} (h : isTerminator x = true) :
    streamWrite c pend x = .keep := if_pos h

theorem streamWrite_first {x : Byte} (h : isTerminator x = false) : streamWrite c none x = .keep :=
  if_neg (Bool.eq_false_iff.1 h)

theorem streamWrite_second {l x : Byte} (h : isTerminator x = false) :
    streamWrite c (some l) x = (requestWrite (decodeCommand l x)).withMasks c :=
  if_neg (Bool.eq_false_iff.1 h)

/-- The write of an event, `pend` being the pending command byte; nothing for an event that is not the host's. -/
def hostWrite (c : Config) (pend : Option Byte) (e : Event) : HostWrite c :=
  match e.port with
  | .command => (requestWrite (decode c e)).withMasks c
  | .stream => streamWrite c pend (BitVec.ofNat 8 e.word)
  | .setp => .set (overlayOfMask c (e.word % 2 ^ c.ovW))
  | .clrp => .clear (overlayOfMask c (e.word % 2 ^ c.ovW))
  | .arm => .arm (overlayOfMask c (e.word % 2 ^ c.ovW))
  | .drvmode => .driveMode (BitVec.ofNat 1 e.word)
  | _ => .keep

/-- Every host write keeps the registers the interrupts own (rule R23). -/
theorem HostWrite.apply_frame (w : HostWrite c) (k : CoreRegs c) :
    w.apply k = { k with
      persist := (w.apply k).persist, oneshot := (w.apply k).oneshot, driveEn := (w.apply k).driveEn } := by
  cases w <;> rfl

/-- The one-shot bits a host write sets. -/
def HostWrite.armed : HostWrite c → BitVec c.ovW
  | .arm m => m
  | _ => 0

theorem HostWrite.apply_oneshot (w : HostWrite c) (k : CoreRegs c) :
    (w.apply k).oneshot = k.oneshot ||| w.armed := by
  cases w
  case arm m => rfl
  all_goals exact (BitVec.or_zero).symm

/-! ### What a step does to the registers -/

/-- With the adjacent state `a`, `run` writes CORE's registers by `f`, and what it does beside them rests on no register but
`frame` and `persist`, the two a host event reads. -/
def WritesBy (a : Adjacent) (run : State → Result) (f : CoreRegs c → CoreRegs c) : Prop :=
  ∀ (k k' : CoreRegs c) (o : Output) (q : List Event), k'.frame = k.frame → k'.persist = k.persist →
    ∃ a' o', run ⟨c, k, a, o, q⟩ = .next ⟨c, f k, a', o', q⟩ ∧ run ⟨c, k', a, o, q⟩ = .next ⟨c, f k', a', o', q⟩

theorem exec_request_writes {i : Instr} {w : Nat} (h : encode i = some ⟨.command, w⟩) (a : Adjacent) :
    WritesBy a (exec i) ((requestWrite i).withMasks c).apply := by
  rintro ⟨_, _, _, _, _, _, _, _, _, _, _⟩ ⟨_, _, _, _, _, _, _, _, _, _, _⟩ o q rfl rfl
  cases i
  case byte | bit | fv | tick | reset | setp | clrp | arm | rdp | rdch | rdf | drvmode | complete | engine | rowsel
    | ovmux | drive | consume | resync | char => cases h
  all_goals exact ⟨_, _, rfl, rfl⟩

theorem exec_char_writes (x : Byte) (a : Adjacent) :
    WritesBy a (exec (.char x)) (streamWrite c a.pend x).apply := by
  intro k k' o q hframe hpersist
  cases hterm : isTerminator x
  · cases hpend : a.pend with
    | none =>
      rw [exec_char_first _ _ _ _ _ x hterm hpend, exec_char_first _ _ _ _ _ x hterm hpend,
        streamWrite_first hterm]
      exact ⟨_, _, rfl, rfl⟩
    | some l =>
      obtain ⟨a', o', h, h'⟩ := exec_request_writes (encode_decodeCommand l x) a k k' o q hframe hpersist
      rw [exec_char_second _ _ _ _ _ x l hterm hpend, exec_char_second _ _ _ _ _ x l hterm hpend, h, h',
        streamWrite_second hterm]
      exact ⟨_, _, rfl, rfl⟩
  · rw [exec_char_terminator _ _ _ _ _ x hterm, exec_char_terminator _ _ _ _ _ x hterm,
      streamWrite_terminator hterm]
    exact ⟨_, _, rfl, rfl⟩

/-- CORE's registers after event `e`, `pend` being the pending command byte. -/
def coreAfter (pend : Option Byte) (e : Event) (k : CoreRegs c) : CoreRegs c :=
  match e.port with
  | .bus => k.receiveByte (BitVec.ofNat 8 e.word)
  | .serial => k.receiveBit (BitVec.ofNat 1 e.word)
  | .frameValid => k.observeFv (BitVec.ofNat 1 e.word)
  | .resetLine => coreReset c
  | _ => (hostWrite c pend e).apply k

theorem exec_event_writes (e : Event) (a : Adjacent) : WritesBy a (exec (decode c e)) (coreAfter (c := c) a.pend e) := by
  obtain ⟨port, word⟩ := e
  cases port
  case command => exact exec_request_writes (encode_decodeCommand _ _) a
  case stream => exact exec_char_writes _ a
  all_goals
    rintro ⟨_, _, _, _, _, _, _, _, _, _, _⟩ ⟨_, _, _, _, _, _, _, _, _, _, _⟩ o q rfl rfl
    exact ⟨_, _, rfl, rfl⟩

/-- A bus or frame-valid event touches nothing beside CORE and answers nothing (rule R23). -/
theorem step_interrupt {e : Event} (h : e.port.agent = .bus ∨ e.port.agent = .fvLine) (k : CoreRegs c) (a : Adjacent)
    (o : Output) (q : List Event) :
    step ⟨c, k, a, o, e :: q⟩ = .next ⟨c, coreAfter a.pend e k, a, Output.silent, q⟩ := by
  obtain ⟨port, word⟩ := e
  cases port
  case bus | serial | frameValid => rfl
  all_goals simp [Port.agent] at h

/-- A bus event brings in a whole byte: on the bus port, or as the eighth bit of one (rules R70, R72). -/
def ByteArrives (k : CoreRegs c) (e : Event) : Prop :=
  e.port = .bus ∨ (e.port = .serial ∧ k.bitcnt = 7)

theorem ByteArrives.agent {k : CoreRegs c} {e : Event} (h : ByteArrives k e) : e.port.agent = .bus := by
  obtain h | ⟨h, -⟩ := h <;> rw [h] <;> rfl

/-- All that an event can do to CORE's registers. -/
inductive CoreChange (pend : Option Byte) (e : Event) (k : CoreRegs c) : CoreRegs c → Prop
  /-- a host event: its write -/
  | host (h : e.port.agent = .host) : CoreChange pend e k ((hostWrite c pend e).apply k)
  /-- a bit inside a byte, or a frame-valid level that is no transition -/
  | quiet (sr : Byte) (n : BitVec 3) (h : e.port.agent = .bus ∨ e.port.agent = .fvLine) :
      CoreChange pend e k { k with sr := sr, bitcnt := n }
  /-- the first byte of a pair (rule R70, corner case (a)) -/
  | firstByte (sr : Byte) (n : BitVec 3) (d : Byte) (h : ByteArrives k e) (hp : k.phase = 0) :
      CoreChange pend e k { k with
        sr := sr, bitcnt := n, buf0 := d, phase := 1
        pout := if c.clearOnByte then k.pout &&& ~~~lineMask c else k.pout }
  /-- the second byte of a pair, with its frame and the engine's effect (rules R70, R71, R80) -/
  | secondByte (sr : Byte) (n : BitVec 3) (d : Byte) (v : BitVec 2) (h : ByteArrives k e) (hp : k.phase = 1) :
      CoreChange pend e k { k with
        sr := sr, bitcnt := n, buf1 := d, phase := 0, frame := frameOf k.buf0 d
        pout := (k.pout &&& ~~~lineMask c) ||| linePattern c v
        oneshot := k.oneshot &&& ~~~rowMask c (rowOf (frameOf k.buf0 d)) }
  /-- a frame-valid transition (rules R90, R91) -/
  | transition (h : e.port = .frameValid) (hl : BitVec.ofNat 1 e.word ≠ k.fvQ) :
      CoreChange pend e k { k with phase := 0, fvQ := BitVec.ofNat 1 e.word }
  /-- RESET (rule R160) -/
  | reset (h : e.port = .resetLine) : CoreChange pend e k (coreReset c)

theorem coreChange_receiveByte (pend : Option Byte) {e : Event} {k : CoreRegs c} (sr : Byte) (n : BitVec 3) (d : Byte)
    (h : ByteArrives k e) :
    CoreChange pend e k (({ k with sr := sr, bitcnt := n } : CoreRegs c).receiveByte d) := by
  obtain hp | hp := bit_zero_or_one k.phase
  · rw [receiveByte_first { k with sr := sr, bitcnt := n } d hp]
    exact .firstByte sr n d h hp
  · rw [receiveByte_second_eq { k with sr := sr, bitcnt := n } d hp]
    exact .secondByte sr n d _ h hp

theorem coreChange_receiveBit (pend : Option Byte) {e : Event} {k : CoreRegs c} (b : Bit) (h : e.port = .serial) :
    CoreChange pend e k (k.receiveBit b) := by
  by_cases hn : k.bitcnt = 7
  · rw [receiveBit_last k b hn]
    exact coreChange_receiveByte pend _ _ _ (.inr ⟨h, hn⟩)
  · rw [receiveBit_inside k b hn]
    exact .quiet _ _ (.inl (by rw [h]; rfl))

theorem coreChange_observeFv (pend : Option Byte) {e : Event} {k : CoreRegs c} (h : e.port = .frameValid) :
    CoreChange pend e k (k.observeFv (BitVec.ofNat 1 e.word)) := by
  rw [observeFv_eq]
  split
  · exact .quiet k.sr k.bitcnt (.inr (by rw [h]; rfl))
  · exact .transition h ‹_›

/-- The inversion lemma: whatever the event, its effect is one of these. -/
theorem coreChange_coreAfter (pend : Option Byte) (e : Event) (k : CoreRegs c) :
    CoreChange pend e k (coreAfter pend e k) := by
  obtain ⟨port, word⟩ := e
  cases port
  case bus => exact coreChange_receiveByte pend k.sr k.bitcnt _ (.inl rfl)
  case serial => exact coreChange_receiveBit pend _ rfl
  case frameValid => exact coreChange_observeFv pend rfl
  case resetLine => exact .reset rfl
  all_goals exact .host rfl

theorem step_writes (k : CoreRegs c) (a : Adjacent) (o : Output) (e : Event) (q : List Event) :
    ∃ a' o', step ⟨c, k, a, o, e :: q⟩ = .next ⟨c, coreAfter a.pend e k, a', o', q⟩ := by
  obtain ⟨a', o', h, -⟩ := exec_event_writes e a k k o q rfl rfl
  exact ⟨a', o', h⟩

/-- A step completes with whatever holds of every change its event can make to the registers. -/
theorem stepCompletes_of_change {s : State} {e : Event} {rest : List Event} (hs : s.inbox = e :: rest)
    {P : CoreRegs s.cfg → Prop} (hP : ∀ k, CoreChange s.adj.pend e s.core k → P k) :
    StepCompletes s rest fun k _ _ => P k := by
  obtain ⟨c, k, a, o, q⟩ := s
  cases hs
  obtain ⟨a', o', h⟩ := step_writes k a o e rest
  exact ⟨_, a', o', h, hP _ (coreChange_coreAfter a.pend e k)⟩

/-- What a step answers: the same state when it idles, else the registers changed by the event it takes (log entry 2). -/
theorem step_cases {s t : State} (h : step s = .next t) :
    t = s ∨ ∃ (e : Event) (rest : List Event) (k : CoreRegs s.cfg) (a : Adjacent) (o : Output),
      s.inbox = e :: rest ∧ t = ⟨s.cfg, k, a, o, rest⟩ ∧ CoreChange s.adj.pend e s.core k := by
  obtain ⟨c, k, a, o, q⟩ := s
  cases q with
  | nil =>
    cases (step_empty c k a o).symm.trans h
    exact .inl rfl
  | cons e rest =>
    obtain ⟨a', o', hstep⟩ := step_writes k a o e rest
    cases hstep.symm.trans h
    exact .inr ⟨e, rest, _, a', o', rfl, rfl, coreChange_coreAfter a.pend e k⟩

/-! ### The port bits that are no matrix line -/

theorem getLsbD_and_not_lineMask (p : BitVec c.portW) {i : Nat} (hi : isLine c i = false) :
    (p &&& ~~~lineMask c).getLsbD i = p.getLsbD i := by
  rw [BitVec.getLsbD_and, BitVec.getLsbD_not, getLsbD_lineMask, hi]
  cases hp : p.getLsbD i
  · rfl
  · simp [BitVec.lt_of_getLsbD hp]

theorem getLsbD_linePattern_of_not_line (v : BitVec 2) {i : Nat} (hi : isLine c i = false) :
    (linePattern c v).getLsbD i = false := by
  have hout : ¬ (c.outShift ≤ i ∧ i < c.outShift + 2) := of_decide_eq_false hi
  rw [getLsbD_linePattern]
  by_cases hle : c.outShift ≤ i
  · simp [BitVec.getLsbD_of_ge v (i - c.outShift) (by omega)]
  · simp [hle]

/-- No event writes a port bit that is no matrix line, but for RESET, which gives it its reset value. -/
theorem CoreChange.other_line {pend : Option Byte} {e : Event} {k k' : CoreRegs c} (h : CoreChange pend e k k')
    {i : Nat} (hi : isLine c i = false) :
    k'.pout.getLsbD i = k.pout.getLsbD i ∨ k'.pout.getLsbD i = c.poutOtherReset.getLsbD i := by
  cases h with
  | host _ => exact .inl (by rw [HostWrite.apply_frame])
  | quiet _ _ _ | transition _ _ => exact .inl rfl
  | firstByte _ _ _ _ _ =>
    refine .inl ?_
    split
    · exact getLsbD_and_not_lineMask _ hi
    · rfl
  | secondByte _ _ _ v _ _ =>
    refine .inl ?_
    rw [BitVec.getLsbD_or, getLsbD_and_not_lineMask _ hi, getLsbD_linePattern_of_not_line v hi, Bool.or_false]
  | reset _ => exact .inr (getLsbD_and_not_lineMask _ hi)

/-- Settles O47: BYTE clears and drives the two lines only, and RESET gives every other bit its reset value. -/
theorem stepKeepsOtherLines : Obligations.StepKeepsOtherLines := by
  intro s t hs h
  obtain rfl | ⟨e, rest, k, a, o, -, rfl, hchange⟩ := step_cases h
  · exact hs
  · exact fun i hi => (hchange.other_line hi).elim (·.trans (hs i hi)) id

/-! ### The channel bits -/

/-- A register has no bit outside the channel bits (rule R28, invariant 5). -/
def InChannelBits (v : BitVec c.ovW) : Prop := v &&& ~~~channelBits c = 0

theorem inChannelBits_iff (v : BitVec c.ovW) :
    InChannelBits v ↔ ∀ i, v.getLsbD i = true → (channelBits c).getLsbD i = true := by
  constructor
  · intro h i hv
    have hbit := congrArg (BitVec.getLsbD · i) h
    simpa [hv, BitVec.lt_of_getLsbD hv] using hbit
  · intro h
    refine BitVec.eq_of_getLsbD_eq fun i hi => ?_
    cases hv : v.getLsbD i
    · simp [hv]
    · simp [hv, h i hv]

theorem inChannelBits_zero : InChannelBits (0 : BitVec c.ovW) := BitVec.zero_and

theorem InChannelBits.or {v m : BitVec c.ovW} (hv : InChannelBits v) (hm : InChannelBits m) :
    InChannelBits (v ||| m) := by
  rw [inChannelBits_iff] at *
  intro i hi
  rw [BitVec.getLsbD_or, Bool.or_eq_true] at hi
  exact hi.elim (hv i) (hm i)

theorem InChannelBits.and {v : BitVec c.ovW} (hv : InChannelBits v) (m : BitVec c.ovW) : InChannelBits (v &&& m) := by
  rw [inChannelBits_iff] at *
  intro i hi
  rw [BitVec.getLsbD_and, Bool.and_eq_true] at hi
  exact hv i hi.1

theorem inChannelBits_chMask (n : Channel) : InChannelBits (chMask c n) := by
  rw [inChannelBits_iff]
  intro i hi
  cases n <;> simp [channelBits, hi]

/-- What a host write sets lies in the channel bits. -/
def HostWrite.SetsChannelBits : HostWrite c → Prop
  | .set m | .arm m => InChannelBits m
  | .keep | .clear _ | .driveMode _ => True

theorem RequestWrite.setsChannelBits (w : RequestWrite) : (w.withMasks c).SetsChannelBits := by
  cases w
  case set n | arm n => exact inChannelBits_chMask n
  all_goals trivial

theorem overlayOfMask_mod (m : Nat) : overlayOfMask c (m % 2 ^ c.ovW) = overlayOfMask c m :=
  BitVec.eq_of_toNat_eq (by simp [overlayOfMask])

theorem hostWrite_setsChannelBits (pend : Option Byte) {e : Event} (h : channelBitsEvent c e = true) :
    (hostWrite c pend e).SetsChannelBits := by
  obtain ⟨port, word⟩ := e
  cases port
  case command => exact RequestWrite.setsChannelBits _
  case stream =>
    simp only [hostWrite, streamWrite]
    split
    · trivial
    · cases pend
      · trivial
      · exact RequestWrite.setsChannelBits _
  case setp | arm =>
    simp only [hostWrite, overlayOfMask_mod]
    have hmask : overlayOfMask c word &&& ~~~channelBits c = 0 := of_decide_eq_true h
    exact hmask
  all_goals trivial

/-- A host write that sets channel bits only keeps both overlay registers inside them. -/
theorem HostWrite.SetsChannelBits.apply {w : HostWrite c} (h : w.SetsChannelBits) {k : CoreRegs c}
    (hp : InChannelBits k.persist) (ho : InChannelBits k.oneshot) :
    InChannelBits (w.apply k).persist ∧ InChannelBits (w.apply k).oneshot := by
  cases w with
  | keep | driveMode _ => exact ⟨hp, ho⟩
  | set m => exact ⟨hp.or h, ho⟩
  | clear m => exact ⟨hp.and _, ho⟩
  | arm m => exact ⟨hp, ho.or h⟩

theorem CoreChange.inChannelBits {pend : Option Byte} {e : Event} {k k' : CoreRegs c} (h : CoreChange pend e k k')
    (he : channelBitsEvent c e = true) (hp : InChannelBits k.persist) (ho : InChannelBits k.oneshot) :
    InChannelBits k'.persist ∧ InChannelBits k'.oneshot := by
  cases h with
  | host _ => exact (hostWrite_setsChannelBits pend he).apply hp ho
  | quiet _ _ _ | firstByte _ _ _ _ _ | transition _ _ => exact ⟨hp, ho⟩
  | secondByte _ _ _ _ _ _ => exact ⟨hp, ho.and _⟩
  | reset _ => exact ⟨inChannelBits_zero, inChannelBits_zero⟩

/-- Settles O48: requests set channel bits only, and the waiting SETP and ARM events do by hypothesis. -/
theorem stepKeepsChannelBitsOnly : Obligations.StepKeepsChannelBitsOnly := by
  rintro s t ⟨hp, ho, hevents⟩ h
  obtain rfl | ⟨e, rest, k, a, o, hinbox, rfl, hchange⟩ := step_cases h
  · exact ⟨hp, ho, hevents⟩
  · rw [hinbox, List.forall_mem_cons] at hevents
    obtain ⟨he, hrest⟩ := hevents
    obtain ⟨hp', ho'⟩ := hchange.inChannelBits he hp ho
    exact ⟨hp', ho', hrest⟩

/-! ### Who owns which register -/

/-- Settles O49: of the changes a step can make, a host event makes its write only, which keeps the other registers and
clears no one-shot bit. -/
theorem hostNeverWritesInterruptOwnedState : Obligations.HostNeverWritesInterruptOwnedState := by
  intro s e rest hs hhost
  refine stepCompletes_of_change hs fun k hchange => ?_
  cases hchange with
  | host _ =>
    refine ⟨HostWrite.apply_frame _ _, fun i hi => ?_⟩
    rw [HostWrite.apply_oneshot, BitVec.getLsbD_or, hi, Bool.true_or]
  | quiet _ _ h => simp [hhost] at h
  | firstByte _ _ _ h _ | secondByte _ _ _ _ h _ =>
    exact absurd (h.agent.symm.trans hhost) (by decide)
  | transition h _ | reset h => simp [h, Port.agent] at hhost

/-- Only a completing byte and RESET clear a one-shot bit, and RESET is no interrupt. -/
theorem CoreChange.interrupt {pend : Option Byte} {e : Event} {k k' : CoreRegs c} (h : CoreChange pend e k k')
    (hagent : e.port.agent = .bus ∨ e.port.agent = .fvLine) :
    k'.persist = k.persist ∧ k'.driveEn = k.driveEn ∧
      ∀ i, k'.oneshot.getLsbD i = true → k.oneshot.getLsbD i = true := by
  cases h with
  | host h => simp [h] at hagent
  | quiet _ _ _ | firstByte _ _ _ _ _ | transition _ _ => exact ⟨rfl, rfl, fun _ => id⟩
  | secondByte _ _ _ _ _ _ =>
    refine ⟨rfl, rfl, fun i hi => ?_⟩
    rw [getLsbD_consumed, Bool.and_eq_true] at hi
    exact hi.1
  | reset h => simp [h, Port.agent] at hagent

/-- Settles O50: an interrupt writes no overlay bit but the one-shot bits that a completed frame clears. -/
theorem interruptsNeverWriteHostOwnedState : Obligations.InterruptsNeverWriteHostOwnedState := by
  rintro ⟨c, k, a, o, q⟩ e rest rfl hagent
  obtain ⟨hpersist, hdriveEn, honeshot⟩ := (coreChange_coreAfter a.pend e k).interrupt hagent
  exact ⟨_, _, _, step_interrupt hagent k a o rest, hpersist, hdriveEn, rfl, rfl, honeshot⟩

/-! ### The one-shot bits -/

theorem armedChannel_requestWrite {i : Instr} {n : Channel} (h : requestWrite i = .arm n) : armedChannel i = some n := by
  cases i <;> cases h <;> rfl

theorem requestArms_of_armed {r : Instr} {i : Nat}
    (h : ((requestWrite r).withMasks c).armed.getLsbD i = true) : requestArms c r i = true := by
  cases hr : requestWrite r with
  | arm n =>
    rw [hr] at h
    have hmask : (chMask c n).getLsbD i = true := h
    simp only [getLsbD_chMask, Bool.and_eq_true, decide_eq_true_eq] at hmask
    simp [requestArms, armedChannel_requestWrite hr, hmask.2]
  | keep | set _ | clear _ | driveMode _ => simp [hr, RequestWrite.withMasks, HostWrite.armed] at h

/-- A host event arms only the bits that the spec says it arms (rules R97, R105, R112). -/
theorem armsBit_of_armed {pend : Option Byte} {e : Event} {i : Nat}
    (h : (hostWrite c pend e).armed.getLsbD i = true) : armsBit c pend e i = true := by
  obtain ⟨port, word⟩ := e
  cases port
  case command => exact requestArms_of_armed h
  case stream =>
    cases hterm : isTerminator (BitVec.ofNat 8 word)
    · cases pend with
      | none => simp [hostWrite, streamWrite_first hterm, HostWrite.armed] at h
      | some l =>
        refine requestArms_of_armed ?_
        rwa [← streamWrite_second hterm]
    · simp [hostWrite, streamWrite_terminator hterm, HostWrite.armed] at h
  case arm =>
    simp only [hostWrite, overlayOfMask_mod, HostWrite.armed, getLsbD_overlayOfMask] at h
    exact h
  all_goals simp [hostWrite, HostWrite.armed] at h

theorem CoreChange.oneshot_rises {pend : Option Byte} {e : Event} {k k' : CoreRegs c} (h : CoreChange pend e k k')
    {i : Nat} (hi : k.oneshot.getLsbD i = false) (hi' : k'.oneshot.getLsbD i = true) :
    armsBit c pend e i = true := by
  cases h with
  | host _ =>
    rw [HostWrite.apply_oneshot, BitVec.getLsbD_or, hi, Bool.false_or] at hi'
    exact armsBit_of_armed hi'
  | quiet _ _ _ | firstByte _ _ _ _ _ | secondByte _ _ _ _ _ _ | transition _ _ => simp [hi] at hi'
  | reset _ => simp [coreReset] at hi'

theorem CoreChange.oneshot_falls {pend : Option Byte} {e : Event} {k k' : CoreRegs c} (h : CoreChange pend e k k')
    {i : Nat} (hi : k.oneshot.getLsbD i = true) (hi' : k'.oneshot.getLsbD i = false) :
    e.port = .resetLine ∨
      (e.port.agent = .bus ∧ k.phase = 1 ∧ k'.phase = 0 ∧ inSlice c (rowOf k'.frame) i = true) := by
  cases h with
  | host _ => simp [HostWrite.apply_oneshot, hi] at hi'
  | quiet _ _ _ | firstByte _ _ _ _ _ | transition _ _ => simp [hi] at hi'
  | secondByte _ _ _ _ h hp =>
    have hconsumed := (getLsbD_consumed k.oneshot _ i).symm.trans hi'
    rw [hi, Bool.true_and, Bool.not_eq_false'] at hconsumed
    exact .inr ⟨h.agent, hp, rfl, hconsumed⟩
  | reset h => exact .inl h

/-- Settles O51: the rises are those of the host's writes, the falls those of the second byte of a pair and of RESET. -/
theorem oneShotBitsChangeOnlyByArmAndConsume : Obligations.OneShotBitsChangeOnlyByArmAndConsume := by
  intro s e rest hs
  exact stepCompletes_of_change hs fun k hchange i => ⟨hchange.oneshot_rises, hchange.oneshot_falls⟩

/-! ### The phase and the frame -/

/-- Settles O52, change by change: only a byte makes the phase 1, so what else changes it found it at 1. -/
theorem phaseChangesOnlyByByteResyncOrReset : Obligations.PhaseChangesOnlyByByteResyncOrReset := by
  intro s e rest hs
  refine stepCompletes_of_change hs fun k hchange hne => ?_
  have hone (h : 0 ≠ s.core.phase) : s.core.phase = 1 := (bit_zero_or_one _).resolve_left h.symm
  cases hchange with
  | host _ => exact absurd (by rw [HostWrite.apply_frame]) hne
  | quiet _ _ _ => exact absurd rfl hne
  | firstByte _ _ _ h _ | secondByte _ _ _ _ h _ => exact .inl h
  | transition h hl => exact .inr (.inl ⟨hone hne, h, hl⟩)
  | reset h => exact .inr (.inr ⟨hone hne, h⟩)

/-- Settles O53, change by change: the second byte of a pair assembles the frame from the bytes it leaves stored. -/
theorem frameChangesOnlyAtCompletion : Obligations.FrameChangesOnlyAtCompletion := by
  intro s e rest hs
  refine stepCompletes_of_change hs fun k hchange hne => ?_
  cases hchange with
  | host _ => exact absurd (by rw [HostWrite.apply_frame]) hne
  | quiet _ _ _ | firstByte _ _ _ _ _ | transition _ _ => exact absurd rfl hne
  | secondByte _ _ _ _ h hp => exact .inr ⟨h.agent, hp, rfl, rfl⟩
  | reset h => exact .inl h

/-! ### Stored bytes that are never read -/

theorem sameButStaleBytes_iff {k k' : CoreRegs c} :
    SameButStaleBytes k k' ↔ ∃ x y : Byte, k' = { k with buf0 := x, buf1 := y } ∧ (k.phase = 1 → x = k.buf0) :=
  ⟨fun ⟨h, h0⟩ => ⟨_, _, h, h0⟩, by rintro ⟨x, y, rfl, h0⟩; exact ⟨rfl, h0⟩⟩

theorem SameButStaleBytes.refl (k : CoreRegs c) : SameButStaleBytes k k := ⟨rfl, fun _ => rfl⟩

/-- BYTE overwrites the stale byte that it would read: at phase 0 `buf[0]`, at phase 1 `buf[1]`. -/
theorem SameButStaleBytes.receiveByte {k k' : CoreRegs c} (h : SameButStaleBytes k k') (d : Byte) :
    SameButStaleBytes (k.receiveByte d) (k'.receiveByte d) := by
  obtain ⟨x, y, rfl, h0⟩ := sameButStaleBytes_iff.1 h
  obtain hp | hp := bit_zero_or_one k.phase
  · rw [receiveByte_first k d hp, receiveByte_first { k with buf0 := x, buf1 := y } d hp]
    exact ⟨rfl, fun _ => rfl⟩
  · obtain rfl := h0 hp
    rw [receiveByte_second_eq k d hp, receiveByte_second_eq { k with buf1 := y } d hp]
    exact .refl _

theorem SameButStaleBytes.receiveBit {k k' : CoreRegs c} (h : SameButStaleBytes k k') (b : Bit) :
    SameButStaleBytes (k.receiveBit b) (k'.receiveBit b) := by
  obtain ⟨x, y, rfl, h0⟩ := sameButStaleBytes_iff.1 h
  by_cases hn : k.bitcnt = 7
  · rw [receiveBit_last k b hn, receiveBit_last { k with buf0 := x, buf1 := y } b hn]
    exact SameButStaleBytes.receiveByte ⟨rfl, h0⟩ _
  · rw [receiveBit_inside k b hn, receiveBit_inside { k with buf0 := x, buf1 := y } b hn]
    exact ⟨rfl, h0⟩

theorem SameButStaleBytes.observeFv {k k' : CoreRegs c} (h : SameButStaleBytes k k') (l : Bit) :
    SameButStaleBytes (k.observeFv l) (k'.observeFv l) := by
  obtain ⟨x, y, rfl, h0⟩ := sameButStaleBytes_iff.1 h
  rw [observeFv_eq, observeFv_eq]
  by_cases hl : l = k.fvQ
  · rw [if_pos hl, if_pos hl]
    exact h
  · rw [if_neg hl, if_neg hl]
    exact ⟨rfl, fun hp => absurd hp (show ¬ (0 : Bit) = 1 by decide)⟩

theorem SameButStaleBytes.apply {k k' : CoreRegs c} (h : SameButStaleBytes k k') (w : HostWrite c) :
    SameButStaleBytes (w.apply k) (w.apply k') := by
  obtain ⟨x, y, rfl, h0⟩ := sameButStaleBytes_iff.1 h
  cases w <;> exact ⟨rfl, h0⟩

theorem SameButStaleBytes.after {k k' : CoreRegs c} (h : SameButStaleBytes k k') (pend : Option Byte) (e : Event) :
    SameButStaleBytes (coreAfter pend e k) (coreAfter pend e k') := by
  obtain ⟨port, word⟩ := e
  have hwrite := h.apply (hostWrite c pend ⟨port, word⟩)
  cases port
  case bus => exact h.receiveByte _
  case serial => exact h.receiveBit _
  case frameValid => exact h.observeFv _
  case resetLine => exact .refl _
  all_goals exact hwrite

/-- Settles O55: no event reads a stored byte but a completing one, which reads the one that is not stale. -/
theorem staleBytesAreNeverRead : Obligations.StaleBytesAreNeverRead := by
  rintro ⟨c, k, a, o, q⟩ k' e rest rfl h
  obtain ⟨x, y, rfl, -⟩ := sameButStaleBytes_iff.1 h
  obtain ⟨a', o', hstep, hstep'⟩ := exec_event_writes e a k { k with buf0 := x, buf1 := y } o rest rfl rfl
  exact ⟨_, _, a', o', hstep, hstep', h.after a.pend e⟩

/-! ### The pins after a completed frame -/

theorem getLsbD_ovmux (k : CoreRegs c) (r : Row) {j : Nat} (hj : j < 2) :
    (ovmux c r k.persist k.oneshot).getLsbD j = effectiveBit k (rowShift c r + j) := by
  rw [ovmux, getLsbD_sliceOf _ _ _ hj, BitVec.getLsbD_or, effectiveBit]

/-- Settles O35: both lines lie inside the port, so the pins read back the slice that the engine drove. -/
theorem pinsShowTheRowsEffectiveBits : Obligations.PinsShowTheRowsEffectiveBits := by
  rintro ⟨c, k, a, o, q⟩ d t hc hp h
  rw [exec_byte, receiveByte_second_eq k d hp] at h
  cases h
  refine ⟨rfl, fun j hj => ?_⟩
  rw [pins, linesOf_driven hc.lines_in_port]
  exact getLsbD_ovmux k _ hj

/-! ### Reset -/

/-- Settles O10. The port is POUT_OTHER_RESET with its lines cleared; every other register is its constant. -/
theorem resetSetsEveryRegister : Obligations.ResetSetsEveryRegister := by
  rintro ⟨c, k, a, o, q⟩
  refine ⟨_, _, _, exec_reset c k a o q, rfl, rfl, rfl, rfl, rfl, rfl, fun i hi => ?_,
    rfl, rfl, rfl, rfl, rfl, rfl, rfl⟩
  change (c.poutOtherReset &&& ~~~lineMask c).getLsbD i = _
  cases hline : isLine c i
  · exact getLsbD_and_not_lineMask _ hline
  · simp [hline]

/-- Settles O11. Off the lines the reset port is POUT_OTHER_RESET, and both overlay registers are empty. -/
theorem resetStateMeetsTheInvariants : Obligations.ResetStateMeetsTheInvariants := by
  intro c
  refine ⟨fun i hi => getLsbD_and_not_lineMask _ hi,
    ⟨inChannelBits_zero, inChannelBits_zero, fun e he => absurd he List.not_mem_nil⟩, ?_⟩
  rintro ⟨_, k, a, o, q⟩ rfl rfl
  exact exec_reset _ k a o []

end Sys2Proof.Machine
end

section
/-! PROOFS. The memory (spec/20_memory.md): events take effect one at a time, in the order of the inbox, each as the one
operation it decodes to (rules R35, R38). -/

namespace Sys2Proof.Machine

/-- Settles O7, by the inbox: an event waiting is decoded under the state's configuration, and without one the step idles. -/
theorem stepRunsTheDecodedEvent : Obligations.StepRunsTheDecodedEvent := by
  constructor
  · rintro ⟨c, k, a, o, q⟩ e rest (rfl : q = e :: rest)
    exact step_cons c k a o e rest
  · rintro ⟨c, k, a, o, q⟩ (rfl : q = [])
    exact step_empty c k a o

end Sys2Proof.Machine
end

section
/-! PROOFS. The encoding (spec/30_encoding.md): an operation and the event that causes it determine each other (rules R50 to
R61). -/

namespace Sys2Proof.Machine

/-! ### Request words -/

theorem ofNat_high_requestWord (l t : Byte) : BitVec.ofNat 8 ((requestWord l t).toNat / 256) = l := by
  apply BitVec.eq_of_toNat_eq
  have := l.isLt
  have := t.isLt
  rw [toNat_requestWord, BitVec.toNat_ofNat]
  omega

theorem ofNat_low_requestWord (l t : Byte) : BitVec.ofNat 8 (requestWord l t).toNat = t := by
  apply BitVec.eq_of_toNat_eq
  have := t.isLt
  rw [toNat_requestWord, BitVec.toNat_ofNat]
  omega

theorem toNat_requestWord_ofNat {w : Nat} (hw : w < 2 ^ 16) :
    (requestWord (BitVec.ofNat 8 (w / 256)) (BitVec.ofNat 8 w)).toNat = w := by
  rw [toNat_requestWord, BitVec.toNat_ofNat, BitVec.toNat_ofNat]
  omega

/-- The command port takes a request word apart into the two bytes it was made of (rule R55). -/
theorem decode_requestWord (c : Config) (l t : Byte) :
    decode c ⟨.command, (requestWord l t).toNat⟩ = decodeCommand l t := by
  rw [decode, ofNat_high_requestWord, ofNat_low_requestWord]

/-! ### Fallbacks -/

/-- The letters that DISPATCH tests for are those the opcode map lists targets for. -/
theorem isUnknownRequest_eq_not_isCommandLetter (l : Byte) : isUnknownRequest l = !isCommandLetter l := by
  unfold isUnknownRequest listedTargets isCommandLetter
  split_ifs <;> grind

theorem decodeCommand_unknown {l : Byte} (t : Byte) (h : isUnknownRequest l = true) :
    decodeCommand l t = .unknown l t := by
  rw [isUnknownRequest_eq_not_isCommandLetter, Bool.not_eq_true'] at h
  simp [decodeCommand, h]

/-- Every row of the opcode map is a listed target of its letter (rule R60). -/
theorem not_isUnhandledRequest_of_mem_commandTable : ∀ p ∈ commandTable,
    isUnhandledRequest (BitVec.ofNat 8 (p.1.toNat / 256)) (BitVec.ofNat 8 p.1.toNat) = false := by decide

theorem lookup_eq_none_of_isUnhandledRequest {l t : Byte} (h : isUnhandledRequest l t = true) :
    commandTable.lookup (requestWord l t) = none := by
  cases hlookup : commandTable.lookup (requestWord l t) with
  | none => rfl
  | some i =>
    have hlisted := not_isUnhandledRequest_of_mem_commandTable _ (mem_of_lookup_eq_some hlookup)
    rw [ofNat_high_requestWord, ofNat_low_requestWord, h] at hlisted
    cases hlisted

theorem isUnknownRequest_eq_false_of_isUnhandledRequest {l t : Byte} (h : isUnhandledRequest l t = true) :
    isUnknownRequest l = false := by
  unfold isUnhandledRequest at h
  unfold isUnknownRequest
  cases hl : listedTargets l with
  | none => simp [hl] at h
  | some ts => rfl

theorem decodeCommand_unhandled {l t : Byte} (h : isUnhandledRequest l t = true) :
    decodeCommand l t = .unhandled l t := by
  have hletter := isUnknownRequest_eq_false_of_isUnhandledRequest h
  rw [isUnknownRequest_eq_not_isCommandLetter, Bool.not_eq_false'] at hletter
  simp [decodeCommand, hletter, lookup_eq_none_of_isUnhandledRequest h]

/-! ### There and back -/

theorem ofNat_toNat_self {w : Nat} (v : BitVec w) : BitVec.ofNat w v.toNat = v := by
  rw [BitVec.ofNat_toNat, BitVec.setWidth_eq]

theorem mod_eq_of_maskFits {c : Config} {m : Nat} (h : maskFits c m = true) : m % 2 ^ c.ovW = m :=
  Nat.mod_eq_of_lt (of_decide_eq_true h)

/-- Settles O4, by the operation. Well-formedness is what the fallbacks and the masks need: a listed request has its own
operation, and a wider mask is cut to OV_W bits. -/
theorem encodedOperationDecodesBack : Obligations.EncodedOperationDecodesBack := by
  intro c i e hwf he
  cases i with
  | unhandled l t =>
    cases he
    rw [← toNat_requestWord, decode_requestWord]
    exact decodeCommand_unhandled hwf
  | unknown l t =>
    cases he
    rw [← toNat_requestWord, decode_requestWord]
    exact decodeCommand_unknown t hwf
  | byte v | bit v | fv v | tick v | drvmode v | char v =>
    cases he
    exact congrArg _ (ofNat_toNat_self v)
  | setp m | clrp m | arm m | rdch m =>
    cases he
    exact congrArg _ (mod_eq_of_maskFits hwf)
  | complete | engine | rowsel | ovmux | drive | consume | resync => cases he
  | _ =>
    cases he
    rfl

/-- Settles O5, by the port: what the decoder cuts a word to is the port's own width. -/
theorem decodedEventEncodesBack : Obligations.DecodedEventEncodesBack := by
  rintro c ⟨port, w⟩ hw
  cases port with
  | command =>
    rw [decode, encode_decodeCommand, toNat_requestWord_ofNat hw]
  | resetLine | rdp | rdf =>
    cases Nat.lt_one_iff.1 hw
    rfl
  | stream | bus | serial | frameValid | alarm | drvmode | setp | clrp | arm | rdch =>
    exact congrArg (fun v => some (Event.mk _ v)) (Nat.mod_eq_of_lt hw)

/-! ### Words of the opcode table -/

theorem decodeTableWord_request {i : Instr} {w : Nat} (hwf : i.wf cfgRef = true) (he : encode i = some ⟨.command, w⟩) :
    decodeTableWord 16 w = some i :=
  congrArg some (encodedOperationDecodesBack cfgRef i _ hwf he)

theorem decodeTableWord_busByte {i : Instr} {w : Nat} (hwf : i.wf cfgRef = true) (he : encode i = some ⟨.bus, w⟩) :
    decodeTableWord 8 w = some i :=
  congrArg some (encodedOperationDecodesBack cfgRef i _ hwf he)

/-- Settles O1: each word is the encoding of its operation, on the port that its length names. -/
theorem tableWordsDecodeToTheirOperations : Obligations.TableWordsDecodeToTheirOperations :=
  ⟨decodeTableWord_request rfl rfl, decodeTableWord_request rfl rfl, decodeTableWord_request rfl rfl,
    decodeTableWord_request rfl rfl, decodeTableWord_request rfl rfl, decodeTableWord_request rfl rfl,
    decodeTableWord_request rfl rfl, decodeTableWord_request rfl rfl, decodeTableWord_request rfl rfl,
    decodeTableWord_request rfl rfl, decodeTableWord_request rfl rfl, decodeTableWord_busByte rfl rfl⟩

end Sys2Proof.Machine
end

section
/-! PROOFS. The frame decoder (spec/40_frame_decoder.md): what a byte does at each phase, how the phase alternates over a
series of bytes, how bits make up a byte, when a byte and a frame-valid level commute, and that no port causes an internal
action (rules R70 to R75, R90). -/

namespace Sys2Proof.Machine

variable {c : Config}

/-! ### What the decoder gives -/

/-- Every listed target of a letter has its row of the opcode map (rule R60). -/
theorem lookup_isSome_of_listedTargets {l t : Byte} {ts : List Byte} (hl : listedTargets l = some ts) (ht : t ∈ ts) :
    (commandTable.lookup (requestWord l t)).isSome = true := by
  have hall : ∀ l ∈ [0x52, 0x53, 0x55, 0x50, 0x45, 0x44], ∀ t ∈ (listedTargets l).getD [],
      (commandTable.lookup (requestWord l t)).isSome = true := by decide
  have hletter : l ∈ [0x52, 0x53, 0x55, 0x50, 0x45, 0x44] := by
    have hknown : isUnknownRequest l = false := by simp [isUnknownRequest, hl]
    rw [isUnknownRequest_eq_not_isCommandLetter, Bool.not_eq_false'] at hknown
    simpa [isCommandLetter, or_assoc] using hknown
  exact hall l hletter t (by rwa [hl])

/-- A request that reaches neither fallback has a row of the opcode map, and decodes to it (rules R60, R61). -/
theorem decodeCommand_listed {l t : Byte} (hunknown : isUnknownRequest l = false)
    (hunhandled : isUnhandledRequest l t = false) : (requestWord l t, decodeCommand l t) ∈ commandTable := by
  obtain ⟨ts, hts⟩ : ∃ ts, listedTargets l = some ts := by
    simpa [isUnknownRequest, Option.isSome_iff_exists] using hunknown
  have ht : t ∈ ts := by simpa [isUnhandledRequest, hts] using hunhandled
  obtain ⟨i, hi⟩ := Option.isSome_iff_exists.1 (lookup_isSome_of_listedTargets hts ht)
  rw [isUnknownRequest_eq_not_isCommandLetter, Bool.not_eq_false'] at hunknown
  have hdecode : decodeCommand l t = i := by simp [decodeCommand, hunknown, hi]
  rw [hdecode]
  exact mem_of_lookup_eq_some hi

theorem wf_of_mem_commandTable (c : Config) : ∀ p ∈ commandTable, p.2.wf c = true :=
  List.all_eq_true.1 rfl

theorem decodeCommand_wf (c : Config) (l t : Byte) : (decodeCommand l t).wf c = true := by
  cases hunknown : isUnknownRequest l with
  | true =>
    rw [decodeCommand_unknown t hunknown]
    exact hunknown
  | false =>
    cases hunhandled : isUnhandledRequest l t with
    | true =>
      rw [decodeCommand_unhandled hunhandled]
      exact hunhandled
    | false => exact wf_of_mem_commandTable c _ (decodeCommand_listed hunknown hunhandled)

theorem maskFits_mod (c : Config) (m : Nat) : maskFits c (m % 2 ^ c.ovW) = true :=
  decide_eq_true (Nat.mod_lt m (Nat.two_pow_pos c.ovW))

/-- Settles O6, by the port: a request is encoded as itself, a mask is cut to OV_W bits, and no other port's operation has a
condition to meet. -/
theorem decodedOperationIsWellFormed : Obligations.DecodedOperationIsWellFormed := by
  rintro c ⟨port, w⟩
  cases port with
  | command => exact ⟨decodeCommand_wf c _ _, by rw [decode, encode_decodeCommand]; rfl⟩
  | setp | clrp | arm | rdch => exact ⟨maskFits_mod c w, rfl⟩
  | stream | bus | serial | frameValid | alarm | resetLine | rdp | rdf | drvmode => exact ⟨rfl, rfl⟩

/-! ### One byte -/

/-- The bits of the port after its two lines are cleared (rule R73). -/
theorem getLsbD_clearedLines (p : BitVec c.portW) (i : Nat) :
    (p &&& ~~~lineMask c).getLsbD i = (p.getLsbD i && !isLine c i) := by
  cases hline : isLine c i
  · simpa using getLsbD_and_not_lineMask p hline
  · cases hp : p.getLsbD i
    · simp [hp]
    · simp [hline, BitVec.lt_of_getLsbD hp]

/-- Settles O28, by the whole effect of BYTE at phase 0 (`receiveByte_first`). -/
theorem firstByteIsStoredAndAwaitsSecond : Obligations.FirstByteIsStoredAndAwaitsSecond := by
  rintro ⟨c, k, a, o, q⟩ d hp
  refine ⟨_, _, _, exec_byte c k a o q d, ?_⟩
  rw [receiveByte_first k d hp]
  refine ⟨rfl, rfl, rfl, fun i => ?_⟩
  cases hclear : c.clearOnByte
  · simp
  · simpa using getLsbD_clearedLines k.pout i

/-- The bits of the port after ENGINE: the two lines take the row's effective bits (rules R80, R83). -/
theorem getLsbD_engineDriven (k : CoreRegs c) (r : Row) {i : Nat} (hi : i < c.portW) :
    ((k.pout &&& ~~~lineMask c) ||| linePattern c (ovmux c r k.persist k.oneshot)).getLsbD i =
      if i = c.outShift then effectiveBit k (rowShift c r)
      else if i = c.outShift + 1 then effectiveBit k (rowShift c r + 1)
      else k.pout.getLsbD i := by
  rw [getLsbD_driven _ _ _ hi, getLsbD_ovmux k r Nat.zero_lt_two, getLsbD_ovmux k r Nat.one_lt_two, Nat.add_zero]

/-- Settles O29, by the whole effect of BYTE at phase 1 (`receiveByte_second_eq`). -/
theorem secondByteCompletesTheFrame : Obligations.SecondByteCompletesTheFrame := by
  rintro ⟨c, k, a, o, q⟩ d hp
  refine ⟨_, _, _, exec_byte c k a o q d, ?_⟩
  rw [receiveByte_second_eq k d hp, rowOf_frameOf]
  exact ⟨rfl, rfl, rfl, toNat_frameOf k.buf0 d, rowOf_frameOf k.buf0 d,
    fun i => getLsbD_engineDriven k _, fun i => getLsbD_consumed k.oneshot _ i⟩

/-! ### A series of operations on the registers -/

/-- Operations that write CORE's registers by `f` and answer nothing, run in sequence, fold `f` over the registers. -/
theorem runOps_map {α : Type} {op : α → Instr} {f : CoreRegs c → α → CoreRegs c} {a : Adjacent} {q : List Event}
    (hop : ∀ x k o, exec (op x) ⟨c, k, a, o, q⟩ = .next ⟨c, f k x, a, Output.silent, q⟩)
    (xs : List α) (k : CoreRegs c) (o : Output) :
    runOps (xs.map op) ⟨c, k, a, o, q⟩ = .next ⟨c, xs.foldl f k, a, xs.foldl (fun _ _ => Output.silent) o, q⟩ := by
  induction xs generalizing k o with
  | nil => rfl
  | cons x xs ih =>
    rw [List.map_cons, runOps, hop]
    exact ih (f k x) Output.silent

/-! ### A series of bytes -/

theorem receiveByte_phase (k : CoreRegs c) (d : Byte) : (k.receiveByte d).phase = phaseNext k.phase := by
  obtain hp | hp := bit_zero_or_one k.phase
  · rw [receiveByte_first k d hp, hp, phaseNext_zero]
  · rw [receiveByte_second_eq k d hp, hp, phaseNext_one]

theorem toNat_phaseNext (p : Bit) : (phaseNext p).toNat = (p.toNat + 1) % 2 := by
  obtain rfl | rfl := bit_zero_or_one p <;> rfl

/-- The phase counts the bytes modulo 2 (rule R75). -/
theorem toNat_phase_foldl_receiveByte (ds : List Byte) (k : CoreRegs c) :
    (ds.foldl CoreRegs.receiveByte k).phase.toNat = (k.phase.toNat + ds.length) % 2 := by
  induction ds generalizing k with
  | nil => exact (Nat.mod_eq_of_lt k.phase.isLt).symm
  | cons d ds ih =>
    rw [List.foldl_cons, ih, receiveByte_phase, toNat_phaseNext, List.length_cons]
    omega

theorem phase_foldl_receiveByte (ds : List Byte) (k : CoreRegs c) (hp : k.phase = 0) :
    (ds.foldl CoreRegs.receiveByte k).phase = if ds.length % 2 = 0 then 0 else 1 := by
  have hcount := toNat_phase_foldl_receiveByte ds k
  have hzero : k.phase.toNat = 0 := congrArg BitVec.toNat hp
  rw [hzero, Nat.zero_add] at hcount
  apply BitVec.eq_of_toNat_eq
  obtain heven | hodd := Nat.mod_two_eq_zero_or_one ds.length
  · rw [hcount, heven, if_pos rfl]
    rfl
  · rw [hcount, hodd, if_neg Nat.one_ne_zero]
    rfl

theorem ite_eq_one (p : Bit) : (if p = 1 then 1 else 0) = p.toNat := by
  obtain rfl | rfl := bit_zero_or_one p <;> rfl

/-- From phase 1 the byte already stored counts too (rule R75). -/
theorem completions_eq (ds : List Byte) (k : CoreRegs c) :
    completions ds k = (k.phase.toNat + ds.length) / 2 := by
  induction ds generalizing k with
  | nil => exact (Nat.div_eq_of_lt k.phase.isLt).symm
  | cons d ds ih =>
    have hphase := k.phase.isLt
    rw [completions, ih, receiveByte_phase, toNat_phaseNext, List.length_cons, ite_eq_one]
    omega

theorem frame_foldl_receiveByte_pair (pre : List Byte) (d1 d2 : Byte) (k : CoreRegs c) (hp : k.phase = 0)
    (heven : pre.length % 2 = 0) :
    ((pre ++ [d1, d2]).foldl CoreRegs.receiveByte k).frame = frameOf d1 d2 := by
  have hphase : (pre.foldl CoreRegs.receiveByte k).phase = 0 := by
    rw [phase_foldl_receiveByte pre k hp, if_pos heven]
  rw [List.foldl_append]
  exact congrArg CoreRegs.frame (receiveByte_pair _ d1 d2 hphase)

/-- Settles O38, by induction on the list, generalised to both phases: the phase and the number of completions are the
remainder and the quotient of one count. -/
theorem bytesAlternateThePhase : Obligations.BytesAlternateThePhase := by
  rintro ds ⟨c, k, a, o, q⟩ (hp : k.phase = 0)
  refine ⟨⟨ds.foldl CoreRegs.receiveByte k, ⟨_, runOps_map (fun d k o => exec_byte c k a o q d) ds k o⟩,
    phase_foldl_receiveByte ds k hp, ?_⟩, ?_⟩
  · rintro pre d1 d2 rfl heven
    exact frame_foldl_receiveByte_pair pre d1 d2 k hp heven
  · simp [completions_eq, hp]

/-! ### Bits -/

theorem getLsbD_shiftIn_msbFirst (sr : Byte) (b : Bit) {j : Nat} (hj : j < 8) :
    (shiftIn true sr b).getLsbD j = if j = 0 then b.getLsbD 0 else sr.getLsbD (j - 1) := by
  cases j with
  | zero => simp [shiftIn]
  | succ j =>
    have hlow : j < 8 := by omega
    simp [shiftIn, hj, hlow]

theorem getLsbD_shiftIn_lsbFirst (sr : Byte) (b : Bit) {j : Nat} (hj : j < 8) :
    (shiftIn false sr b).getLsbD j = if j = 7 then b.getLsbD 0 else sr.getLsbD (j + 1) := by
  by_cases h7 : j = 7
  · subst h7
    simp [shiftIn]
  · have hlow : j < 7 := by omega
    simp [shiftIn, hj, h7, hlow, Nat.add_comm]

/-- A shift takes the bit in at the end that MSB_FIRST gives and moves the others by one (rule R72). -/
theorem getLsbD_shiftIn (msbFirst : Bool) (sr : Byte) (b : Bit) {j : Nat} (hj : j < 8) :
    (shiftIn msbFirst sr b).getLsbD j =
      if msbFirst then (if j = 0 then b.getLsbD 0 else sr.getLsbD (j - 1))
      else (if j = 7 then b.getLsbD 0 else sr.getLsbD (j + 1)) := by
  cases msbFirst
  · exact getLsbD_shiftIn_lsbFirst sr b hj
  · exact getLsbD_shiftIn_msbFirst sr b hj

theorem toNat_bitcnt_succ : ∀ n : BitVec 3, n ≠ 7 → (n + 1).toNat = n.toNat + 1 := by decide

/-- Settles O39, by the whole effect of BIT inside a byte (`receiveBit_inside`) and at its end (`receiveBit_last`). -/
theorem bitIsShiftedInAndCounted : Obligations.BitIsShiftedInAndCounted := by
  rintro ⟨c, k, a, o, q⟩ b
  refine ⟨shiftIn c.msbFirst k.sr b, fun j => getLsbD_shiftIn c.msbFirst k.sr b, fun hcnt => ?_, fun hcnt => ?_⟩
  · refine ⟨_, _, _, exec_bit c k a o q b, ?_⟩
    rw [receiveBit_inside k b hcnt]
    exact ⟨rfl, toNat_bitcnt_succ k.bitcnt hcnt, rfl, rfl⟩
  · refine ⟨_, exec_bit c k a o q b, ?_⟩
    rw [receiveBit_last k b hcnt]
    rfl

/-- Bits that do not fill the byte are shifted in and counted, and change nothing else (rule R72, corner case (a)). -/
theorem foldl_receiveBit_inside (bs : List Bit) (k : CoreRegs c) (h : k.bitcnt.toNat + bs.length < 8) :
    bs.foldl CoreRegs.receiveBit k =
      { k with sr := bs.foldl (shiftIn c.msbFirst) k.sr, bitcnt := k.bitcnt + BitVec.ofNat 3 bs.length } := by
  induction bs generalizing k with
  | nil => simp
  | cons b bs ih =>
    rw [List.length_cons] at h
    have hne : k.bitcnt ≠ 7 := by
      intro h7
      simp only [h7, BitVec.reduceToNat] at h
      omega
    have hcount := toNat_bitcnt_succ k.bitcnt hne
    have hlen : k.bitcnt + 1 + BitVec.ofNat 3 bs.length = k.bitcnt + BitVec.ofNat 3 (bs.length + 1) := by
      rw [Nat.add_comm bs.length, BitVec.ofNat_add, BitVec.add_assoc]
      rfl
    rw [List.foldl_cons, receiveBit_inside k b hne, ih _ (by simp only [hcount]; omega), List.length_cons, ← hlen]
    rfl

/-- Bits written in a row are a word with its last bit at position 0. -/
theorem getLsbD_append_eight (b7 b6 b5 b4 b3 b2 b1 b0 : Bit) {j : Nat} (hj : j < 8) :
    (b7 ++ b6 ++ b5 ++ b4 ++ b3 ++ b2 ++ b1 ++ b0).getLsbD j =
      ([b0, b1, b2, b3, b4, b5, b6, b7].getD j 0).getLsbD 0 := by
  simp only [BitVec.getLsbD_append]
  interval_cases j <;> rfl

/-- Eight shifts replace the whole byte, its first bit at the end that MSB_FIRST gives (rule R72, corner case (b)). -/
theorem foldl_shiftIn_eight (msbFirst : Bool) (sr : Byte) (a1 a2 a3 a4 a5 a6 a7 a8 : Bit) :
    [a1, a2, a3, a4, a5, a6, a7, a8].foldl (shiftIn msbFirst) sr =
      if msbFirst then a1 ++ a2 ++ a3 ++ a4 ++ a5 ++ a6 ++ a7 ++ a8
      else a8 ++ a7 ++ a6 ++ a5 ++ a4 ++ a3 ++ a2 ++ a1 := by
  refine BitVec.eq_of_getLsbD_eq fun j hj => ?_
  cases msbFirst
  · refine .trans ?_ (getLsbD_append_eight a8 a7 a6 a5 a4 a3 a2 a1 hj).symm
    interval_cases j <;> simp [getLsbD_shiftIn_lsbFirst, -BitVec.getLsbD_eq_getElem]
  · refine .trans ?_ (getLsbD_append_eight a1 a2 a3 a4 a5 a6 a7 a8 hj).symm
    interval_cases j <;> simp [getLsbD_shiftIn_msbFirst, -BitVec.getLsbD_eq_getElem]

/-- Seven bits from a byte boundary leave the count at 7, and the eighth hands the byte over (rule R72). -/
theorem foldl_receiveBit_eight (k : CoreRegs c) (a1 a2 a3 a4 a5 a6 a7 a8 : Bit) (hcnt : k.bitcnt = 0) {d : Byte}
    (hd : [a1, a2, a3, a4, a5, a6, a7, a8].foldl (shiftIn c.msbFirst) k.sr = d) :
    [a1, a2, a3, a4, a5, a6, a7, a8].foldl CoreRegs.receiveBit k = ({ k with sr := d } : CoreRegs c).receiveByte d := by
  have hseven := foldl_receiveBit_inside [a1, a2, a3, a4, a5, a6, a7] k (by simp [hcnt])
  have hcnt7 : k.bitcnt + BitVec.ofNat 3 7 = 7 := by
    rw [hcnt]
    rfl
  calc [a1, a2, a3, a4, a5, a6, a7, a8].foldl CoreRegs.receiveBit k
      = ([a1, a2, a3, a4, a5, a6, a7].foldl CoreRegs.receiveBit k).receiveBit a8 := by
        simp only [List.foldl_cons, List.foldl_nil]
    _ = ({ k with sr := d, bitcnt := 0 } : CoreRegs c).receiveByte d := by
        rw [hseven, receiveBit_last _ a8 hcnt7, ← hd]
        simp only [List.foldl_cons, List.foldl_nil]
    _ = ({ k with sr := d } : CoreRegs c).receiveByte d := by rw [← hcnt]

/-- Settles O40: the first seven bits only shift and count, and the eighth is the BYTE of what they have shifted in. -/
theorem eightBitsAreOneByte : Obligations.EightBitsAreOneByte := by
  rintro ⟨c, k, a, o, q⟩ a1 a2 a3 a4 a5 a6 a7 a8 (hcnt : k.bitcnt = 0)
  have hrun := runOps_map (fun b k o => exec_bit c k a o q b) [a1, a2, a3, a4, a5, a6, a7, a8] k o
  rw [foldl_receiveBit_eight k a1 a2 a3 a4 a5 a6 a7 a8 hcnt (foldl_shiftIn_eight c.msbFirst k.sr ..)] at hrun
  exact hrun

/-! ### A byte beside a frame-valid level -/

theorem receiveByte_fvQ (k : CoreRegs c) (d : Byte) : (k.receiveByte d).fvQ = k.fvQ := by
  obtain hp | hp := bit_zero_or_one k.phase
  · rw [receiveByte_first k d hp]
  · rw [receiveByte_second_eq k d hp]

theorem observeFv_of_no_transition (k : CoreRegs c) {l : Bit} (h : l = k.fvQ) : k.observeFv l = k := by
  rw [observeFv_eq, if_pos h]

theorem observeFv_phase_of_transition (k : CoreRegs c) {l : Bit} (h : l ≠ k.fvQ) : (k.observeFv l).phase = 0 := by
  rw [observeFv_eq, if_neg h]

/-- Beside a transition the order shows in the phase: 0 when the level comes last, 1 when the byte does (rules R70, R90). -/
theorem receiveByte_observeFv_comm_iff (k : CoreRegs c) (d : Byte) (l : Bit) :
    (k.receiveByte d).observeFv l = (k.observeFv l).receiveByte d ↔ l = k.fvQ := by
  have hfvQ := receiveByte_fvQ k d
  constructor
  · intro h
    by_contra hne
    have hphase : (0 : Bit) = 1 := calc
      (0 : Bit) = ((k.receiveByte d).observeFv l).phase :=
          (observeFv_phase_of_transition _ (hfvQ.symm ▸ hne)).symm
      _ = ((k.observeFv l).receiveByte d).phase := congrArg CoreRegs.phase h
      _ = 1 := by rw [receiveByte_phase, observeFv_phase_of_transition k hne, phaseNext_zero]
    exact absurd hphase (by decide)
  · intro h
    rw [observeFv_of_no_transition k h, observeFv_of_no_transition _ (h.trans hfvQ.symm)]

/-- Settles O56: both orders write the registers only, and those commute without a transition and never with one. -/
theorem byteAndFrameValidCommuteWithoutTransition : Obligations.ByteAndFrameValidCommuteWithoutTransition := by
  rintro ⟨c, k, a, o, q⟩ d l
  have hbyteFirst : runOps [.byte d, .fv l] ⟨c, k, a, o, q⟩ =
      .next ⟨c, (k.receiveByte d).observeFv l, a, Output.silent, q⟩ := rfl
  have hlevelFirst : runOps [.fv l, .byte d] ⟨c, k, a, o, q⟩ =
      .next ⟨c, (k.observeFv l).receiveByte d, a, Output.silent, q⟩ := rfl
  rw [hbyteFirst, hlevelFirst, ← receiveByte_observeFv_comm_iff k d l]
  simp

end Sys2Proof.Machine
end

section
/-! PROOFS. The overlay engine (spec/41_overlay_engine.md): what each of its actions writes and keeps, the engine as a whole,
a one-shot bit over two frames of its row, and the drive mode (rules R80 to R89). -/

namespace Sys2Proof.Machine

variable {c : Config}

/-! ### The engine's actions -/

theorem getLsbD_row3Bit (f : Frame) : f.getLsbD row3Bit = decide (32768 ≤ f.toNat) := by
  rw [row3Bit, ← BitVec.msb_eq_getLsbD_last f, BitVec.msb_eq_decide]

/-- Below bit 15, bit 14 is the top bit of the frame (rule R81). -/
theorem getLsbD_row2Bit {f : Frame} (h : f.toNat < 32768) : f.getLsbD row2Bit = decide (16384 ≤ f.toNat) := by
  rw [BitVec.getLsbD, row2Bit, Nat.testBit_eq_decide_div_mod_eq]
  exact decide_eq_decide.2 (by omega)

/-- The row of a frame by the range its number lies in (rules R20, R81). -/
theorem rowOf_eq_ite (f : Frame) :
    rowOf f = if 32768 ≤ f.toNat then .row3 else if 16384 ≤ f.toNat then .row2 else .row1 := by
  by_cases h : 32768 ≤ f.toNat
  · simp [rowOf, getLsbD_row3Bit, h]
  · simp [rowOf, getLsbD_row3Bit, getLsbD_row2Bit (Nat.lt_of_not_le h), h]

/-- Settles O31, by the range of the frame (`rowOf_eq_ite`). -/
theorem rowSelectionHasFixedPriority : Obligations.RowSelectionHasFixedPriority := by
  rintro ⟨c, k, a, o, q⟩ f
  refine ⟨_, _, _, exec_rowsel c k a o q f, rfl, rfl, rfl, ?_⟩
  rw [Output.give_result, rowOf_eq_ite]
  refine ⟨fun h3 => ?_, fun h2 h3 => ?_, fun h1 => ?_⟩
  · rw [if_pos h3]
  · rw [if_neg (Nat.not_le_of_lt h3), if_pos h2]
  · rw [if_neg (by omega), if_neg (Nat.not_le_of_lt h1)]

/-- Settles O32: bit `j` of a slice is the overlay bit at the row's shift plus `j`. -/
theorem overlaySelectionTakesTheRowsTwoBits : Obligations.OverlaySelectionTakesTheRowsTwoBits := by
  rintro ⟨c, k, a, o, q⟩ r p e
  refine ⟨_, _, _, exec_ovmux c k a o q r p e, rfl, rfl, rfl, _, rfl, fun j hj => ?_⟩
  rw [ovmux, getLsbD_sliceOf _ _ _ hj, BitVec.getLsbD_or, getLsbD_overlayOfMask, getLsbD_overlayOfMask, maskBit, maskBit]

/-- Settles O33: DRIVE writes the port alone (`drive_eq`), bit by bit as `getLsbD_driven` says. -/
theorem driveReplacesExactlyTwoLines : Obligations.DriveReplacesExactlyTwoLines := by
  rintro ⟨c, k, a, o, q⟩ v
  refine ⟨_, _, _, exec_drive c k a o q v, ?_⟩
  rw [drive_eq]
  exact ⟨rfl, rfl, rfl, getLsbD_driven k.pout v⟩

/-- Settles O34: CONSUME writes the one-shot bits alone (`consume_eq`), and twice is as once (`consume_twice`). -/
theorem consumeClearsTheRowsOneShotBits : Obligations.ConsumeClearsTheRowsOneShotBits := by
  rintro ⟨c, k, a, o, q⟩ r
  refine ⟨⟨_, _, _, exec_consume c k a o q r, ?_⟩, fun t h => ?_⟩
  · rw [consume_eq]
    exact ⟨rfl, rfl, rfl, getLsbD_consumed k.oneshot r⟩
  · cases (exec_consume c k a o q r).symm.trans h
    rw [exec_consume, consume_twice]

/-- Settles O30: ENGINE's effect is `engine_eq`, bit by bit as DRIVE's and CONSUME's; COMPLETE is the engine on the frame
of the two stored bytes (`complete_eq`). -/
theorem engineDrivesTheSliceAndConsumesTheRow : Obligations.EngineDrivesTheSliceAndConsumesTheRow := by
  rintro ⟨c, k, a, o, q⟩
  refine ⟨⟨_, _, _, exec_engine c k a o q, ?_⟩, ⟨_, _, _, exec_complete c k a o q, ?_⟩⟩
  · rw [engine_eq]
    exact ⟨rfl, rfl, rfl, fun i => getLsbD_engineDriven k _, getLsbD_consumed k.oneshot _⟩
  · rw [complete_eq]
    exact ⟨toNat_frameOf k.buf0 k.buf1, rfl, rfl, exec_engine c _ a o q⟩

/-! ### A one-shot bit over two frames -/

/-- Right after a pair of bytes the lines show its row's effective bits, as they stood before it (rules R80, R85). -/
theorem getLsbD_linesOf_pair (hc : ConfigValid c) (k : CoreRegs c) (d1 d2 : Byte) (hp : k.phase = 0) {j : Nat} (hj : j < 2) :
    (linesOf c ((k.receiveByte d1).receiveByte d2).pout).getLsbD j =
      effectiveBit k (rowShift c (rowOf (frameOf d1 d2)) + j) := by
  rw [receiveByte_pair k d1 d2 hp, linesOf_driven hc.lines_in_port, getLsbD_ovmux k _ hj]

/-- After a pair of bytes nothing is armed in its row, so the row's effective bits are the persistent ones (rule R84). -/
theorem effectiveBit_pair_of_inSlice (k : CoreRegs c) (d1 d2 : Byte) (hp : k.phase = 0) {i : Nat}
    (hi : inSlice c (rowOf (frameOf d1 d2)) i = true) :
    effectiveBit ((k.receiveByte d1).receiveByte d2) i = k.persist.getLsbD i := by
  rw [receiveByte_pair k d1 d2 hp, effectiveBit, getLsbD_consumed, hi, Bool.not_true, Bool.and_false, Bool.or_false]

/-- Settles O36: the first frame shows the effective bits and disarms the row, so that the second one, of the same row,
finds effective bits that are the persistent ones. -/
theorem oneShotBitsShowOnOneFrame : Obligations.OneShotBitsShowOnOneFrame := by
  rintro ⟨c, k, a, o, q⟩ d1 d2 d3 d4 t u hc (hp : k.phase = 0) hrow ht hu j hj
  cases (runOps_bytePair k a o q d1 d2).symm.trans ht
  cases (runOps_bytePair _ a _ q d3 d4).symm.trans hu
  have hp' : ((k.receiveByte d1).receiveByte d2).phase = 0 :=
    (congrArg CoreRegs.phase (receiveByte_pair k d1 d2 hp)).trans hp
  have hslice : inSlice c (rowOf (frameOf d1 d2)) (rowShift c (rowOf (frameOf d1 d2)) + j) = true :=
    (inSlice_iff _ _).2 (by omega)
  refine ⟨getLsbD_linesOf_pair hc k d1 d2 hp hj, ?_⟩
  calc (linesOf c ((((k.receiveByte d1).receiveByte d2).receiveByte d3).receiveByte d4).pout).getLsbD j
    _ = effectiveBit ((k.receiveByte d1).receiveByte d2) (rowShift c (rowOf (frameOf d3 d4)) + j) :=
        getLsbD_linesOf_pair hc _ d3 d4 hp' hj
    _ = k.persist.getLsbD (rowShift c (rowOf (frameOf d1 d2)) + j) := by
        rw [← hrow, effectiveBit_pair_of_inSlice k d1 d2 hp hslice]

/-! ### The drive mode -/

/-- What a drive-mode command gives: `drive_en` at its new value, the latched lines as they were (rules R22, R88). -/
theorem completes_of_setDriveEn {s : State} {i : Instr} {v : Bit} {o : Output}
    (h : exec i s = .next (s.finish (s.core.setDriveEn v) s.adj o)) :
    Completes i s fun k a o' => k = { s.core with driveEn := v } ∧ a = s.adj ∧ o'.response = o.response ∧
      pins ⟨s.cfg, k, a, o', s.inbox⟩ = (v, (pins s).2) :=
  ⟨_, _, _, h, rfl, rfl, rfl, rfl⟩

/-- Settles O23, command by command: each ends with `drive_en` written (`completes_of_setDriveEn`). -/
theorem driveModeCommandsWriteDriveEnOnly : Obligations.DriveModeCommandsWriteDriveEnOnly := by
  intro s p hmem
  simp only [List.mem_cons, List.not_mem_nil, or_false] at hmem
  obtain rfl | rfl | rfl | rfl := hmem
  · exact ⟨rfl, completes_of_setDriveEn (o := Output.respond .textDriven) rfl⟩
  · exact ⟨rfl, completes_of_setDriveEn (o := Output.respond .textSensed) rfl⟩
  · exact ⟨rfl, completes_of_setDriveEn (o := Output.silent) rfl⟩
  · exact ⟨rfl, completes_of_setDriveEn (o := Output.silent) rfl⟩

end Sys2Proof.Machine
end

section
/-! PROOFS. The resync monitor (spec/42_resync_monitor.md): what FV and RESYNC write, what they keep, and that nothing but
`phase` and `fv_q` takes part in it (rules R90 to R92). -/

namespace Sys2Proof.Machine

variable {c : Config}

/-! ### The monitor's two operations on the registers -/

theorem observeFv_of_transition (k : CoreRegs c) {l : Bit} (h : l ≠ k.fvQ) :
    k.observeFv l = { k with phase := 0, fvQ := l } := by
  rw [observeFv_eq, if_neg h]

theorem resync_of_phase_zero (k : CoreRegs c) (h : k.phase = 0) : k.resync = k := by
  rw [resync_eq, ← h]

@[simp] theorem observeFv_fvQ (k : CoreRegs c) (l : Bit) : (k.observeFv l).fvQ = l := rfl

/-- The level just remembered is no transition (rule R90). -/
theorem observeFv_twice (k : CoreRegs c) (l : Bit) : (k.observeFv l).observeFv l = k.observeFv l :=
  observeFv_of_no_transition _ (observeFv_fvQ k l).symm

/-- FV as the two registers it writes, each from `phase`, `fv_q` and the level alone (rules R90, R92). -/
theorem observeFv_eq_monitored (k : CoreRegs c) (l : Bit) :
    k.observeFv l = { k with phase := if l = k.fvQ then k.phase else 0, fvQ := l } := by
  by_cases h : l = k.fvQ
  · rw [observeFv_of_no_transition k h, if_pos h, h]
  · rw [observeFv_of_transition k h, if_neg h]

/-- Settles O42: RESYNC is the phase set to 0 (`resync_eq`), which at phase 0 changes nothing. -/
theorem resyncOnlyClearsThePhase : Obligations.ResyncOnlyClearsThePhase := by
  rintro ⟨c, k, a, o, q⟩
  exact ⟨_, _, _, exec_resync c k a o q, resync_eq k, resync_of_phase_zero k, rfl, rfl⟩

/-- Settles O41: with and without a transition; the second FV finds the level it brings remembered (`observeFv_twice`). -/
theorem frameValidTransitionResetsPhase : Obligations.FrameValidTransitionResetsPhase := by
  rintro ⟨c, k, a, o, q⟩ l
  refine ⟨⟨_, _, _, exec_fv c k a o q l, rfl, rfl, observeFv_of_no_transition k, observeFv_of_transition k⟩, fun t h => ?_⟩
  cases (exec_fv c k a o q l).symm.trans h
  rw [exec_fv, observeFv_twice]

/-! ### Isolation -/

theorem completes_fv_monitored (s : State) (l : Bit) :
    Completes (.fv l) s fun k a o =>
      k = { s.core with phase := if l = s.core.fvQ then s.core.phase else 0, fvQ := l } ∧
        a = s.adj ∧ o.response = none := by
  obtain ⟨c, k, a, o, q⟩ := s
  exact ⟨_, _, _, exec_fv c k a o q l, observeFv_eq_monitored k l, rfl, rfl⟩

theorem completes_resync_monitored (s : State) :
    Completes .resync s fun k a o =>
      k = { s.core with phase := 0, fvQ := s.core.fvQ } ∧ a = s.adj ∧ o.response = none := by
  obtain ⟨c, k, a, o, q⟩ := s
  exact ⟨_, _, _, exec_resync c k a o q, resync_eq k, rfl, rfl⟩

/-- Settles O43: the two new values are read off `phase` and `fv_q`, in which the two states agree. -/
theorem resyncMonitorIsIsolated : Obligations.ResyncMonitorIsIsolated := by
  intro s s' hphase hfvQ i hi
  have fv_isolated (l : Bit) := completes_fv_monitored s' l
  have resync_isolated := completes_resync_monitored s'
  simp only [hphase, hfvQ] at fv_isolated resync_isolated
  simp only [List.mem_cons, List.not_mem_nil, or_false] at hi
  obtain rfl | rfl | rfl := hi
  · exact ⟨_, _, completes_fv_monitored s 0, fv_isolated 0⟩
  · exact ⟨_, _, completes_fv_monitored s 1, fv_isolated 1⟩
  · exact ⟨_, _, completes_resync_monitored s, resync_isolated⟩

end Sys2Proof.Machine
end

section
/-! PROOFS. The overlay store (spec/43_overlay_store.md): the host's reads of the frame and of the persistent bits, in both
forms, and the three writes by mask, each twice as once (rules R95 to R100, R107, R108). -/

namespace Sys2Proof.Machine

variable {c : Config}

/-! ### Reads of whole registers -/

/-- A read: the registers and the adjacent state stay, one response is given (rule R118). -/
theorem completes_of_answer {s : State} {i : Instr} {v : Response} (h : exec i s = .next (s.answer v)) :
    Completes i s fun k a o => k = s.core ∧ a = s.adj ∧ o.response = some v :=
  ⟨_, _, _, h, rfl, rfl, rfl⟩

/-- RDF and RA are one read, on two levels of the host port (rules R100, R107). -/
theorem exec_frameRead {i : Instr} (hi : i ∈ [Instr.rdf, .ra]) (s : State) :
    exec i s = .next (s.answer (.hex 16 s.core.frame)) := by
  obtain ⟨c, k, a, o, q⟩ := s
  simp only [List.mem_cons, List.not_mem_nil, or_false] at hi
  obtain rfl | rfl := hi
  · exact exec_rdf c k a o q
  · exact exec_ra c k a o q

theorem completes_frameRead {i : Instr} (hi : i ∈ [Instr.rdf, .ra]) {s : State} {f : Frame} (hf : s.core.frame = f) :
    Completes i s fun _ _ o => o.response = some (.hex 16 f) :=
  ⟨_, _, _, exec_frameRead hi s, hf ▸ rfl⟩

/-- Settles O12: both reads answer `frame` (`exec_frameRead`), which a first byte keeps and which is 0 at reset. -/
theorem frameReadsReturnTheLastFrame : Obligations.FrameReadsReturnTheLastFrame := by
  refine ⟨fun s i hi => completes_of_answer (exec_frameRead hi s), ?_, fun c i hi => completes_frameRead hi rfl⟩
  rintro ⟨c, k, a, o, q⟩ d hp t ht i hi
  cases (exec_byte c k a o q d).symm.trans ht
  have hframe : (k.receiveByte d).frame = k.frame := by rw [receiveByte_first k d hp]
  exact completes_frameRead hi hframe

/-- Settles O13, read by read: each answers `persist` in OV_W bits. -/
theorem persistentReadsReturnPersist : Obligations.PersistentReadsReturnPersist := by
  rintro ⟨c, k, a, o, q⟩ p hmem
  simp only [List.mem_cons, List.not_mem_nil, or_false] at hmem
  obtain rfl | rfl := hmem
  · exact ⟨rfl, completes_of_answer (exec_rdp c k a o q)⟩
  · exact ⟨rfl, completes_of_answer (exec_rw c k a o q)⟩

/-! ### Bits under a mask -/

theorem getLsbD_or_overlayOfMask (v : BitVec c.ovW) (m i : Nat) :
    (v ||| overlayOfMask c m).getLsbD i = (v.getLsbD i || maskBit c m i) := by
  rw [BitVec.getLsbD_or, getLsbD_overlayOfMask, maskBit]

theorem getLsbD_and_overlayOfMask (v : BitVec c.ovW) (m i : Nat) :
    (v &&& overlayOfMask c m).getLsbD i = (v.getLsbD i && m.testBit i) := by
  rw [BitVec.getLsbD_and, getLsbD_overlayOfMask]
  cases hv : v.getLsbD i
  · rfl
  · simp [BitVec.lt_of_getLsbD hv]

theorem getLsbD_and_not_overlayOfMask (v : BitVec c.ovW) (m i : Nat) :
    (v &&& ~~~overlayOfMask c m).getLsbD i = (v.getLsbD i && !maskBit c m i) := by
  rw [BitVec.getLsbD_and, BitVec.getLsbD_not, getLsbD_overlayOfMask, maskBit]
  cases hv : v.getLsbD i
  · rfl
  · simp [BitVec.lt_of_getLsbD hv]

/-! ### The masked read -/

theorem ne_zero_iff_exists_getLsbD {w : Nat} (v : BitVec w) : v ≠ 0 ↔ ∃ i, v.getLsbD i = true := by
  rw [Ne, BitVec.eq_of_getLsbD_eq_iff]
  simp only [BitVec.ofNat_eq_ofNat, BitVec.getLsbD_zero, not_forall, Bool.not_eq_false]
  exact ⟨fun ⟨i, _, hv⟩ => ⟨i, hv⟩, fun ⟨i, hv⟩ => ⟨i, BitVec.lt_of_getLsbD hv, hv⟩⟩

theorem nonZeroBit_ne_zero_iff {w : Nat} (v : BitVec w) : nonZeroBit v ≠ 0 ↔ v ≠ 0 := by
  simp [nonZeroBit]

theorem channelResponse_normalised (k : CoreRegs c) (m : BitVec c.ovW) (h : c.rdchNormalised = true) :
    k.channelResponse m = .hex 1 (nonZeroBit (k.persist &&& m)) := by
  rw [CoreRegs.channelResponse, if_pos h]

theorem channelResponse_inPlace (k : CoreRegs c) (m : BitVec c.ovW) (h : c.rdchNormalised = false) :
    k.channelResponse m = .hex c.ovW (k.persist &&& m) := by
  rw [CoreRegs.channelResponse, if_neg (by simp [h])]

/-- A value is not zero under a mask when some bit is set in both (rule R99). -/
theorem and_overlayOfMask_ne_zero_iff (v : BitVec c.ovW) (m : Nat) :
    v &&& overlayOfMask c m ≠ 0 ↔ ∃ i, v.getLsbD i = true ∧ m.testBit i = true := by
  simp only [ne_zero_iff_exists_getLsbD, getLsbD_and_overlayOfMask, Bool.and_eq_true]

/-- Settles O15, by the form RDCH_NORMALISED chooses: the masked bits themselves, or their truth value. -/
theorem maskedReadIsNonZeroWhenABitIsSet : Obligations.MaskedReadIsNonZeroWhenABitIsSet := by
  rintro ⟨c, k, a, o, q⟩ m
  refine ⟨_, _, _, exec_rdch c k a o q m, rfl, rfl, ?_⟩
  have hmasked := and_overlayOfMask_ne_zero_iff k.persist m
  cases hform : c.rdchNormalised
  · refine ⟨_, _, congrArg some (channelResponse_inPlace k _ hform), hmasked, nofun, fun _ => ⟨rfl, ?_⟩⟩
    exact getLsbD_and_overlayOfMask k.persist m
  · exact ⟨_, _, congrArg some (channelResponse_normalised k _ hform), (nonZeroBit_ne_zero_iff _).trans hmasked,
      fun _ => rfl, nofun⟩

/-! ### The writes by mask -/

/-- An operation that writes CORE's registers by an idempotent function changes nothing the second time (rule R89). -/
theorem exec_twice {i : Instr} {f : CoreRegs c → CoreRegs c}
    (hexec : ∀ k a o q, exec i ⟨c, k, a, o, q⟩ = .next ⟨c, f k, a, Output.silent, q⟩) (htwice : ∀ k, f (f k) = f k)
    {k : CoreRegs c} {a : Adjacent} {o : Output} {q : List Event} {t : State}
    (h : exec i ⟨c, k, a, o, q⟩ = .next t) : exec i t = .next t := by
  cases (hexec k a o q).symm.trans h
  rw [hexec, htwice]

/-- Settles O16: SETP is `persist` or-ed with the mask (`setPersistBits_eq`), and twice is as once (`exec_twice`). -/
theorem setMaskSetsPersistentBits : Obligations.SetMaskSetsPersistentBits := by
  rintro ⟨c, k, a, o, q⟩ m
  refine ⟨⟨_, _, _, exec_setp c k a o q m, ?_⟩, fun t => ?_⟩
  · rw [CoreRegs.setPersistBits_eq]
    exact ⟨getLsbD_or_overlayOfMask k.persist m, rfl, rfl, rfl⟩
  · exact exec_twice (exec_setp c · · · · m) (setPersistBits_twice · _)

/-- Settles O17: CLRP is `persist` cut by the mask (`clearPersistBits_eq`), and twice is as once (`exec_twice`). -/
theorem clearMaskClearsPersistentBits : Obligations.ClearMaskClearsPersistentBits := by
  rintro ⟨c, k, a, o, q⟩ m
  refine ⟨⟨_, _, _, exec_clrp c k a o q m, ?_⟩, fun t => ?_⟩
  · rw [CoreRegs.clearPersistBits_eq]
    exact ⟨getLsbD_and_not_overlayOfMask k.persist m, rfl, rfl, rfl⟩
  · exact exec_twice (exec_clrp c · · · · m) (clearPersistBits_twice · _)

/-- Settles O18: ARM is `oneshot` or-ed with the mask (`armBits_eq`), and twice is as once (`exec_twice`). -/
theorem armMaskSetsOneShotBits : Obligations.ArmMaskSetsOneShotBits := by
  rintro ⟨c, k, a, o, q⟩ m
  refine ⟨⟨_, _, _, exec_arm c k a o q m, ?_⟩, fun t => ?_⟩
  · rw [CoreRegs.armBits_eq]
    exact ⟨getLsbD_or_overlayOfMask k.oneshot m, rfl, rfl, rfl⟩
  · exact exec_twice (exec_arm c · · · · m) (armBits_twice · _)

end Sys2Proof.Machine
end

section
/-! PROOFS. The command port (spec/44_command_port.md): the one outcome of each request and how many requests have it, what
the channel commands read and write, the texts of the two fallbacks, and the framing of requests in the command stream
(rules R105, R106, R109 to R112, R115, R116). -/

namespace Sys2Proof.Machine

variable {c : Config}

/-! ### The outcome of a request -/

theorem decodeCommand_eq_unknown_iff (l t : Byte) : decodeCommand l t = .unknown l t ↔ isUnknownRequest l = true := by
  refine ⟨fun h => ?_, decodeCommand_unknown t⟩
  have hwf := decodeCommand_wf cfgRef l t
  rwa [h] at hwf

theorem decodeCommand_eq_unhandled_iff (l t : Byte) :
    decodeCommand l t = .unhandled l t ↔ isUnhandledRequest l t = true := by
  refine ⟨fun h => ?_, decodeCommand_unhandled⟩
  have hwf := decodeCommand_wf cfgRef l t
  rwa [h] at hwf

/-- Settles O2: what reaches neither fallback is a row of the opcode map (`decodeCommand_listed`), and is encoded as the
word it was decoded from. -/
theorem everyRequestHasOneOutcome : Obligations.EveryRequestHasOneOutcome := by
  intro l t
  refine ⟨decodeCommand_unknown t, decodeCommand_unhandled, fun hunknown hunhandled => ?_⟩
  exact ⟨_, decodeCommand_listed hunknown hunhandled, rfl, encode_decodeCommand l t⟩

/-! ### How many requests have each outcome -/

/-- Every byte once, in order. -/
def allBytes : List Byte := (List.range 256).map (BitVec.ofNat 8)

theorem mem_allBytes (x : Byte) : x ∈ allBytes :=
  List.mem_map.2 ⟨x.toNat, List.mem_range.2 x.isLt, ofNat_toNat_self x⟩

theorem nodup_allBytes : allBytes.Nodup := by
  refine List.nodup_range.map_on fun m hm n hn h => ?_
  have htoNat := congrArg BitVec.toNat h
  rw [BitVec.toNat_ofNat, BitVec.toNat_ofNat] at htoNat
  rw [List.mem_range] at hm hn
  omega

theorem filter_contains_allBytes_perm {ts : List Byte} (h : ts.Nodup) : (allBytes.filter (ts.contains ·)).Perm ts := by
  refine (List.perm_ext_iff_of_nodup (nodup_allBytes.filter _) h).2 fun x => ?_
  simp [mem_allBytes]

theorem countP_contains_allBytes {ts : List Byte} (h : ts.Nodup) : allBytes.countP (ts.contains ·) = ts.length := by
  rw [List.countP_eq_length_filter, (filter_contains_allBytes_perm h).length_eq]

theorem countP_not_contains_allBytes {ts : List Byte} (h : ts.Nodup) :
    allBytes.countP (fun t => !ts.contains t) = 256 - ts.length := by
  have hsplit := allBytes.length_eq_countP_add_countP (ts.contains ·)
  rw [countP_contains_allBytes h, allBytes, List.length_map, List.length_range] at hsplit
  simp only [Bool.not_eq_true, Bool.decide_eq_false] at hsplit
  exact (Nat.sub_eq_of_eq_add' hsplit).symm

theorem nodup_listedTargets {l : Byte} {ts : List Byte} (h : listedTargets l = some ts) : ts.Nodup := by
  unfold listedTargets at h
  split_ifs at h <;> cases h <;> decide

/-- How many of the 256 targets make letter `l` UNKNOWN (rule R116). -/
theorem countP_unknown (l : Byte) :
    allBytes.countP (fun t => decide (decodeCommand l t = .unknown l t)) =
      (listedTargets l).elim 256 fun _ => 0 := by
  simp only [decodeCommand_eq_unknown_iff, isUnknownRequest]
  cases listedTargets l with
  | none => simp [allBytes]
  | some ts => simp

/-- How many of the 256 targets are UNHANDLED for letter `l` (rule R115). -/
theorem countP_unhandled (l : Byte) :
    allBytes.countP (fun t => decide (decodeCommand l t = .unhandled l t)) =
      (listedTargets l).elim 0 fun ts => 256 - ts.length := by
  simp only [decodeCommand_eq_unhandled_iff, isUnhandledRequest]
  cases hl : listedTargets l with
  | none => simp
  | some ts => simpa using countP_not_contains_allBytes (nodup_listedTargets hl)

/-- How many of the 256 targets make a command with letter `l` (rule R60). -/
theorem countP_command (l : Byte) :
    allBytes.countP (fun t => decide (decodeCommand l t ≠ .unknown l t ∧ decodeCommand l t ≠ .unhandled l t)) =
      (listedTargets l).elim 0 List.length := by
  simp only [ne_eq, decodeCommand_eq_unknown_iff, decodeCommand_eq_unhandled_iff, isUnknownRequest, isUnhandledRequest]
  cases hl : listedTargets l with
  | none => simp
  | some ts => simpa using countP_contains_allBytes (nodup_listedTargets hl)

/-- A sum over all bytes of what is `d` at every byte but those of `ts`. -/
theorem sum_map_allBytes {ts : List Byte} (hts : ts.Nodup) {f : Byte → Nat} {d : Nat} (hf : ∀ x ∉ ts, f x = d) :
    (allBytes.map f).sum = (ts.map f).sum + (256 - ts.length) * d := by
  have hrest : (allBytes.filter (fun x => !ts.contains x)).map f = List.replicate (256 - ts.length) d := by
    rw [List.eq_replicate_iff, List.length_map, ← List.countP_eq_length_filter, countP_not_contains_allBytes hts]
    simpa [mem_allBytes] using hf
  calc (allBytes.map f).sum
    _ = ((allBytes.filter (ts.contains ·) ++ allBytes.filter (fun x => !ts.contains x)).map f).sum :=
        ((List.filter_append_perm _ allBytes).map f).sum_eq.symm
    _ = (ts.map f).sum + (256 - ts.length) * d := by
        rw [List.map_append, List.sum_append, ((filter_contains_allBytes_perm hts).map f).sum_eq, hrest,
          List.sum_replicate_nat]

/-- The letters that have a list of targets, R S U P E D (rule R59). -/
def commandLetters : List Byte := [0x52, 0x53, 0x55, 0x50, 0x45, 0x44]

theorem listedTargets_eq_none {l : Byte} (h : l ∉ commandLetters) : listedTargets l = none := by
  have hunknown : isUnknownRequest l = true := by
    rw [isUnknownRequest_eq_not_isCommandLetter]
    simpa [commandLetters, isCommandLetter, and_assoc] using h
  exact Option.isNone_iff_eq_none.1 hunknown

/-- A count of request words, by the list of targets of their letter: 250 of the 256 command bytes have none. -/
theorem sum_map_countP {p : Byte → Byte → Bool} {unlisted : Nat} {listed : List Byte → Nat}
    (hp : ∀ l, allBytes.countP (p l) = (listedTargets l).elim unlisted listed) :
    (allBytes.map fun l => allBytes.countP (p l)).sum =
      (commandLetters.map fun l => (listedTargets l).elim unlisted listed).sum + 250 * unlisted := by
  simp only [hp]
  exact sum_map_allBytes (ts := commandLetters) (by decide) fun l hl => by rw [listedTargets_eq_none hl]; rfl

/-- Settles O3: for each command byte the targets are counted by its list of targets, which only the six letters have. -/
theorem requestWordCounts : Obligations.RequestWordCounts :=
  ⟨sum_map_countP countP_unknown, sum_map_countP countP_unhandled, sum_map_countP countP_command⟩

/-! ### Bits under a channel's mask -/

theorem getLsbD_and_chMask (v : BitVec c.ovW) (n : Channel) (i : Nat) :
    (v &&& chMask c n).getLsbD i = (v.getLsbD i && decide (i = chBit c n)) := by
  rw [BitVec.getLsbD_and, getLsbD_chMask]
  cases hv : v.getLsbD i
  · rfl
  · simp [BitVec.lt_of_getLsbD hv]

theorem getLsbD_or_chMask (v : BitVec c.ovW) (n : Channel) {i : Nat} (hi : i < c.ovW) :
    (v ||| chMask c n).getLsbD i = if i = chBit c n then true else v.getLsbD i := by
  rw [BitVec.getLsbD_or, getLsbD_chMask]
  by_cases hbit : i = chBit c n
  · subst hbit
    simp [hi]
  · simp [hbit]

theorem getLsbD_and_not_chMask (v : BitVec c.ovW) (n : Channel) {i : Nat} (hi : i < c.ovW) :
    (v &&& ~~~chMask c n).getLsbD i = if i = chBit c n then false else v.getLsbD i := by
  rw [BitVec.getLsbD_and, BitVec.getLsbD_not, getLsbD_chMask]
  by_cases hbit : i = chBit c n
  · subst hbit
    simp [hi]
  · simp [hbit, hi]

/-- Under a channel's mask a value is not zero when the channel's bit is set (rule R99). -/
theorem nonZeroBit_and_chMask (v : BitVec c.ovW) (n : Channel) :
    nonZeroBit (v &&& chMask c n) = BitVec.ofBool (v.getLsbD (chBit c n)) := by
  have hset : v &&& chMask c n ≠ 0 ↔ v.getLsbD (chBit c n) = true := by
    rw [ne_zero_iff_exists_getLsbD]
    simp only [getLsbD_and_chMask, Bool.and_eq_true, decide_eq_true_eq, exists_eq_right]
  cases hv : v.getLsbD (chBit c n)
  · rw [nonZeroBit, if_pos (by simpa [hv] using hset)]
    rfl
  · rw [nonZeroBit, if_neg (hset.2 hv)]
    rfl

/-! ### The channel commands -/

/-- What a read of channel `n` gives, in both forms (rule R109). -/
theorem completes_channelRead {s : State} {i : Instr} {n : Channel} (h : exec i s = .next (readChannel n s)) :
    Completes i s fun k a o => k = s.core ∧ a = s.adj ∧
      (s.cfg.rdchNormalised = true →
        o.response = some (.hex 1 (BitVec.ofBool (s.core.persist.getLsbD (chBit s.cfg n))))) ∧
      (s.cfg.rdchNormalised = false → ∃ v : BitVec s.cfg.ovW, o.response = some (.hex s.cfg.ovW v) ∧
        ∀ j, v.getLsbD j = (s.core.persist.getLsbD j && decide (j = chBit s.cfg n))) := by
  refine ⟨_, _, _, h, rfl, rfl, fun hform => ?_, fun hform => ?_⟩
  · rw [Output.respond_response, channelResponse_normalised _ _ hform, nonZeroBit_and_chMask]
  · exact ⟨_, congrArg some (channelResponse_inPlace _ _ hform), getLsbD_and_chMask s.core.persist n⟩

/-- Settles O14, read by read (`completes_channelRead`): the masked bit in place, or its truth value. -/
theorem channelReadsReturnThePersistentBit : Obligations.ChannelReadsReturnThePersistentBit := by
  intro s p hmem
  simp only [List.mem_cons, List.not_mem_nil, or_false] at hmem
  obtain rfl | rfl | rfl | rfl | rfl := hmem <;> exact ⟨rfl, completes_channelRead rfl⟩

theorem completes_setChannel {s : State} {i : Instr} {n : Channel} (h : exec i s = .next (setChannel n s)) :
    Completes i s fun k a o =>
      (∀ j < s.cfg.ovW, k.persist.getLsbD j = if j = chBit s.cfg n then true else s.core.persist.getLsbD j) ∧
      k = { s.core with persist := k.persist } ∧ a = s.adj ∧ o.response = none :=
  ⟨_, _, _, h, fun _ => getLsbD_or_chMask s.core.persist n, rfl, rfl, rfl⟩

/-- Settles O19, command by command: each is `setChannel` of its channel. -/
theorem setCommandsSetOneChannel : Obligations.SetCommandsSetOneChannel := by
  intro s p hmem
  simp only [List.mem_cons, List.not_mem_nil, or_false] at hmem
  obtain rfl | rfl | rfl | rfl | rfl := hmem <;> exact ⟨rfl, completes_setChannel rfl⟩

theorem completes_clearChannel {s : State} {i : Instr} {n : Channel} (h : exec i s = .next (clearChannel n s)) :
    Completes i s fun k a o =>
      (∀ j < s.cfg.ovW, k.persist.getLsbD j = if j = chBit s.cfg n then false else s.core.persist.getLsbD j) ∧
      k = { s.core with persist := k.persist } ∧ a = s.adj ∧ o.response = none :=
  ⟨_, _, _, h, fun _ => getLsbD_and_not_chMask s.core.persist n, rfl, rfl, rfl⟩

/-- Settles O20, command by command: each is `clearChannel` of its channel. -/
theorem clearCommandsClearOneChannel : Obligations.ClearCommandsClearOneChannel := by
  intro s p hmem
  simp only [List.mem_cons, List.not_mem_nil, or_false] at hmem
  obtain rfl | rfl | rfl | rfl | rfl := hmem <;> exact ⟨rfl, completes_clearChannel rfl⟩

theorem completes_armChannel {s : State} {i : Instr} {n : Channel} (h : exec i s = .next (armChannel n s)) :
    Completes i s fun k a o =>
      (∀ j < s.cfg.ovW, k.oneshot.getLsbD j = if j = chBit s.cfg n then true else s.core.oneshot.getLsbD j) ∧
      k = { s.core with oneshot := k.oneshot } ∧ a = s.adj ∧ o.response = none :=
  ⟨_, _, _, h, fun _ => getLsbD_or_chMask s.core.oneshot n, rfl, rfl, rfl⟩

/-- Settles O21, command by command: each is `armChannel` of its channel. -/
theorem armCommandsArmOneChannel : Obligations.ArmCommandsArmOneChannel := by
  intro s p hmem
  simp only [List.mem_cons, List.not_mem_nil, or_false] at hmem
  obtain rfl | rfl | rfl | rfl | rfl := hmem <;> exact ⟨rfl, completes_armChannel rfl⟩

/-! ### Operations in sequence -/

theorem runOps_cons {i : Instr} {is : List Instr} {s t : State} (h : exec i s = .next t) :
    runOps (i :: is) s = runOps is t := by
  rw [runOps, h]

theorem runOps_append {is js : List Instr} {s t : State} (h : runOps is s = .next t) :
    runOps (is ++ js) s = runOps js t := by
  induction is generalizing s with
  | nil =>
    cases h
    rfl
  | cons i is ih =>
    obtain ⟨k, a, o, hi, -⟩ := exec_completes i s
    rw [runOps_cons hi] at h
    rw [List.cons_append, runOps_cons hi, ih h]

/-! ### A write and the read after it -/

/-- A read answers zero, or not, as its masked bits do, in a width that the configuration alone decides (rules R34, R99). -/
theorem exists_width_channelResponse (c : Config) : ∃ w : Nat, ∀ (k : CoreRegs c) (m : BitVec c.ovW),
    ∃ v : BitVec w, k.channelResponse m = .hex w v ∧ (v = 0 ↔ k.persist &&& m = 0) := by
  cases hform : c.rdchNormalised
  · exact ⟨c.ovW, fun k m => ⟨_, channelResponse_inPlace k m hform, Iff.rfl⟩⟩
  · exact ⟨1, fun k m => ⟨_, channelResponse_normalised k m hform, not_iff_not.1 (nonZeroBit_ne_zero_iff _)⟩⟩

theorem setPersistBits_persist_and (k : CoreRegs c) (m : BitVec c.ovW) : (k.setPersistBits m).persist &&& m = m := by
  refine BitVec.eq_of_getLsbD_eq fun i _ => ?_
  rw [CoreRegs.setPersistBits_eq, BitVec.getLsbD_and, BitVec.getLsbD_or]
  cases m.getLsbD i <;> simp

theorem clearPersistBits_persist_and (k : CoreRegs c) (m : BitVec c.ovW) : (k.clearPersistBits m).persist &&& m = 0 := by
  rw [CoreRegs.clearPersistBits_eq, BitVec.and_assoc, BitVec.and_comm _ m, BitVec.and_not_self]
  exact BitVec.and_zero

/-- Channel `n` set and read, then cleared and read, by the three commands of the channel (rules R109 to R111). -/
theorem setReadClearRead (n : Channel) {set clear read : Instr} (hset : ∀ s, exec set s = .next (setChannel n s))
    (hclear : ∀ s, exec clear s = .next (clearChannel n s)) (hread : ∀ s, exec read s = .next (readChannel n s))
    (s : State) (hc : ConfigValid s.cfg) :
    ∃ t u, runOps [set, read] s = .next t ∧ runOps [clear, read] t = .next u ∧
      ∃ (w : Nat) (v : BitVec w), t.out.response = some (.hex w v) ∧ v ≠ 0 ∧ u.out.response = some (.hex w 0) := by
  obtain ⟨c, k, a, o, q⟩ := s
  obtain ⟨w, hwidth⟩ := exists_width_channelResponse c
  obtain ⟨v, hv, hzero⟩ := hwidth (k.setPersistBits (chMask c n)) (chMask c n)
  obtain ⟨v', hv', hzero'⟩ := hwidth ((k.setPersistBits (chMask c n)).clearPersistBits (chMask c n)) (chMask c n)
  have hv0 : v ≠ 0 := by
    rw [Ne, hzero, setPersistBits_persist_and]
    exact chMask_ne_zero hc n
  obtain rfl : v' = 0 := hzero'.2 (clearPersistBits_persist_and _ _)
  exact ⟨_, _, (runOps_cons (hset _)).trans (runOps_cons (hread _)),
    (runOps_cons (hclear _)).trans (runOps_cons (hread _)), w, v, congrArg some hv, hv0, congrArg some hv'⟩

/-- Settles O22, channel by channel, each with its own three commands (`setReadClearRead`). -/
theorem setThenReadReturnsTheBitAndClearThenReadZero :
    Obligations.SetThenReadReturnsTheBitAndClearThenReadZero := by
  intro s hc p hmem
  simp only [List.mem_cons, List.not_mem_nil, or_false] at hmem
  obtain rfl | rfl | rfl | rfl | rfl := hmem
  · exact setReadClearRead .ch1 (fun _ => rfl) (fun _ => rfl) (fun _ => rfl) s hc
  · exact setReadClearRead .ch2 (fun _ => rfl) (fun _ => rfl) (fun _ => rfl) s hc
  · exact setReadClearRead .ch3 (fun _ => rfl) (fun _ => rfl) (fun _ => rfl) s hc
  · exact setReadClearRead .ch4 (fun _ => rfl) (fun _ => rfl) (fun _ => rfl) s hc
  · exact setReadClearRead .ch5 (fun _ => rfl) (fun _ => rfl) (fun _ => rfl) s hc

/-! ### The two fallbacks -/

/-- An operation that answers a text of exact wording, and changes nothing (rule R118). -/
theorem completes_of_wording {s : State} {i : Instr} {v : Response} {text : String} (h : exec i s = .next (s.answer v))
    (htext : wording v = some text) :
    Completes i s fun k a o => k = s.core ∧ a = s.adj ∧ o.response.bind wording = some text :=
  ⟨_, _, _, h, rfl, rfl, htext⟩

/-- Settles O27: the decoder's side is O2's, and each fallback is an answer of its text. -/
theorem malformedRequestsOnlyAnswerText : Obligations.MalformedRequestsOnlyAnswerText := by
  rintro ⟨c, k, a, o, q⟩ l t
  exact ⟨decodeCommand_unhandled, completes_of_wording (exec_unhandled c k a o q l t) rfl,
    decodeCommand_unknown t, completes_of_wording (exec_unknown c k a o q l t) rfl⟩

/-! ### The command stream -/

/-- Settles O44, by the kind of byte: a terminator (`exec_char_terminator`), or the first byte of a request
(`exec_char_first`). -/
theorem streamByteWithoutRequestOnlySetsPend : Obligations.StreamByteWithoutRequestOnlySetsPend := by
  rintro ⟨c, k, a, o, q⟩ x h
  cases hterm : isTerminator x
  · have hpend : a.pend = none := h.resolve_left (Bool.eq_false_iff.1 hterm)
    exact ⟨_, _, _, exec_char_first c k a o q x hterm hpend, rfl, rfl, rfl, nofun, fun _ => rfl⟩
  · refine ⟨_, _, _, exec_char_terminator c k a o q x hterm, rfl, rfl, ?_, fun _ => ?_, nofun⟩ <;>
      cases c.termClearsPending <;> rfl

/-- The byte that completes a request: what the request does, then `pend` is cleared and the byte echoed (rule R105). -/
theorem exec_char_completing {s : State} {l x : Byte} {k : CoreRegs s.cfg} {a : Adjacent} {o : Output}
    (hterm : isTerminator x = false) (hpend : s.adj.pend = some l)
    (hreq : exec (decodeCommand l x) s = .next ⟨s.cfg, k, a, o, s.inbox⟩) :
    exec (.char x) s = .next ⟨s.cfg, k, a.setPend none, o.echoing x, s.inbox⟩ := by
  calc exec (.char x) s
    _ = endRequest x (exec (decodeCommand l x) s) := execChar_second x l s hterm hpend
    _ = .next ⟨s.cfg, k, a.setPend none, o.echoing x, s.inbox⟩ := by rw [hreq]; rfl

/-- Settles O45: the request completes (`exec_completes`), and the byte then clears `pend` (`exec_char_completing`). -/
theorem streamByteCompletesTheRequest : Obligations.StreamByteCompletesTheRequest := by
  intro s l x hterm hpend
  obtain ⟨k, a, o, hreq, -⟩ := exec_completes (decodeCommand l x) s
  exact ⟨_, _, _, exec_char_completing hterm hpend hreq, a, o, hreq, rfl, rfl⟩

/-! ### Terminators in the stream -/

/-- A request neither reads nor writes the pending byte, and does not read what was given out before it (rule R106). -/
theorem exec_request_ignores_pend {i : Instr} {w : Nat} (h : encode i = some ⟨.command, w⟩) (k : CoreRegs c)
    (a : Adjacent) (pend : Option Byte) (o o₁ : Output) (q : List Event) :
    ∃ k' a' o', exec i ⟨c, k, a, o, q⟩ = .next ⟨c, k', a', o', q⟩ ∧
      exec i ⟨c, k, a.setPend pend, o₁, q⟩ = .next ⟨c, k', a'.setPend pend, o', q⟩ := by
  cases i
  case byte | bit | fv | tick | reset | setp | clrp | arm | rdp | rdch | rdf | drvmode | complete | engine | rowsel
    | ovmux | drive | consume | resync | char => cases h
  all_goals exact ⟨_, _, _, rfl, rfl⟩

/-- When terminators keep the pending byte, a series of them does nothing but echo (rule R105, D28). -/
theorem runOps_terminators (hkeep : c.termClearsPending = false) {ts : List Byte}
    (hts : ∀ y ∈ ts, isTerminator y = true) (k : CoreRegs c) (a : Adjacent) (o : Output) (q : List Event) :
    ∃ o', runOps (ts.map Instr.char) ⟨c, k, a, o, q⟩ = .next ⟨c, k, a, o', q⟩ := by
  induction ts generalizing o with
  | nil => exact ⟨o, rfl⟩
  | cons y ts ih =>
    rw [List.forall_mem_cons] at hts
    obtain ⟨hy, hts⟩ := hts
    rw [List.map_cons, runOps_cons (exec_char_terminator c k a o q y hy), hkeep]
    exact ih hts (Output.silent.echoing y)

/-- Settles O46: the terminators echo and no more, the first byte is held as pending, and the second one runs the request,
which the pending byte does not reach (`exec_request_ignores_pend`). -/
theorem terminatorsAreIgnoredInTheStream : Obligations.TerminatorsAreIgnoredInTheStream := by
  rintro ⟨c, k, a, o, q⟩ l x t1 t2 t3 hkeep hpend hl hx hts
  rw [List.append_assoc, List.forall_mem_append, List.forall_mem_append] at hts
  obtain ⟨ht1, ht2, ht3⟩ := hts
  obtain ⟨o₁, hbefore⟩ := runOps_terminators hkeep ht1 k a o q
  have hfirst := exec_char_first c k a o₁ q l hl hpend
  obtain ⟨o₂, hbetween⟩ := runOps_terminators hkeep ht2 k (a.setPend (some l)) (Output.silent.echoing l) q
  obtain ⟨k', a', o', hreq, hpended⟩ := exec_request_ignores_pend (encode_decodeCommand l x) k a (some l) o o₂ q
  have hsecond := exec_char_completing hx rfl hpended
  obtain ⟨o₃, hafter⟩ := runOps_terminators hkeep ht3 k' (a'.setPend none) (o'.echoing x) q
  refine ⟨k', a', o', o₃, hreq, ?_⟩
  simp only [List.map_append, List.map_cons, List.append_assoc, List.cons_append]
  rw [runOps_append hbefore, runOps_cons hfirst, runOps_append hbetween, runOps_cons hsecond]
  exact hafter

end Sys2Proof.Machine
end

section
/-! PROOFS. The adjacent auxiliary monitor (spec/45_adjacent_aux.md): what an event leaves as the pending command byte, from
which the auxiliary state never reaches CORE (rule R135), and what RS, R6, S6, U6 and TICK do (rules R130 to R134). -/

namespace Sys2Proof.Machine

variable {c : Config}

/-! ### The pending command byte after an event -/

/-- The pending command byte after a byte of the command stream (rule R105). -/
def streamPend (c : Config) (pend : Option Byte) (x : Byte) : Option Byte :=
  if isTerminator x then (if c.termClearsPending then none else pend)
  else
    match pend with
    | none => some x
    | some _ => none

theorem streamPend_terminator {pend : Option Byte} {x : Byte} (h : isTerminator x = true) :
    streamPend c pend x = if c.termClearsPending then none else pend := if_pos h

theorem streamPend_first {x : Byte} (h : isTerminator x = false) : streamPend c none x = some x :=
  if_neg (Bool.eq_false_iff.1 h)

theorem streamPend_second {l x : Byte} (h : isTerminator x = false) : streamPend c (some l) x = none :=
  if_neg (Bool.eq_false_iff.1 h)

/-- The pending command byte after event `e`: only the command stream and RESET write it (rules R26, R105, R160). -/
def pendAfter (c : Config) (pend : Option Byte) (e : Event) : Option Byte :=
  match e.port with
  | .stream => streamPend c pend (BitVec.ofNat 8 e.word)
  | .resetLine => none
  | _ => pend

/-- A request keeps the pending byte: it gives the same state when that byte is written into it again. -/
theorem completes_request_pend {i : Instr} {w : Nat} (h : encode i = some ⟨.command, w⟩) (s : State) :
    Completes i s fun _ a _ => a.pend = s.adj.pend := by
  obtain ⟨c, k, a, o, q⟩ := s
  obtain ⟨k', a', o', hrun, hrewritten⟩ := exec_request_ignores_pend h k a a.pend o o q
  have hsame := Host.Outcome.next.inj (hrun.symm.trans hrewritten)
  exact ⟨k', a', o', hrun, congrArg (·.adj.pend) hsame⟩

theorem completes_char_pend (x : Byte) (s : State) :
    Completes (.char x) s fun _ a _ => a.pend = streamPend s.cfg s.adj.pend x := by
  obtain ⟨c, k, a, o, q⟩ := s
  cases hterm : isTerminator x
  · cases hpend : a.pend with
    | none => exact ⟨_, _, _, exec_char_first c k a o q x hterm hpend, (streamPend_first hterm).symm⟩
    | some l =>
      obtain ⟨k', a', o', hreq, -⟩ := exec_completes (decodeCommand l x) ⟨c, k, a, o, q⟩
      exact ⟨_, _, _, exec_char_completing hterm hpend hreq, (streamPend_second hterm).symm⟩
  · refine ⟨_, _, _, exec_char_terminator c k a o q x hterm, ?_⟩
    rw [streamPend_terminator hterm]
    split <;> rfl

theorem completes_event_pend (e : Event) (s : State) :
    Completes (decode s.cfg e) s fun _ a _ => a.pend = pendAfter s.cfg s.adj.pend e := by
  obtain ⟨port, word⟩ := e
  cases port
  case command => exact completes_request_pend (encode_decodeCommand _ _) s
  case stream => exact completes_char_pend _ s
  all_goals exact ⟨_, _, _, rfl, rfl⟩

/-! ### Isolation -/

/-- CORE's registers and the pending byte after a step are functions of themselves and the event: no auxiliary flag and no
pin occurs in them. -/
theorem step_writes_pend (k : CoreRegs c) (a : Adjacent) (o : Output) (e : Event) (q : List Event) :
    ∃ a' o', step ⟨c, k, a, o, e :: q⟩ = .next ⟨c, coreAfter a.pend e k, a', o', q⟩ ∧
      a'.pend = pendAfter c a.pend e := by
  obtain ⟨a', o', hstep⟩ := step_writes k a o e q
  obtain ⟨_, _, _, hexec, hpend⟩ := completes_event_pend e ⟨c, k, a, o, q⟩
  cases hstep.symm.trans hexec
  exact ⟨a', o', hstep, hpend⟩

/-- Settles O26: both machines have the same registers and pending byte, which alone decide both after the step
(`step_writes_pend`). -/
theorem auxiliaryStateNeverReachesCore : Obligations.AuxiliaryStateNeverReachesCore := by
  rintro ⟨c, k, a, o, q⟩ e rest x y z hs
  cases hs
  obtain ⟨a₁, o₁, hstep₁, hpend₁⟩ := step_writes_pend k a o e rest
  obtain ⟨a₂, o₂, hstep₂, hpend₂⟩ :=
    step_writes_pend k { a with auxEnable := x, auxAlarm := y, enablePin := z } o e rest
  exact ⟨_, a₁, a₂, o₁, o₂, hstep₁, hstep₂, hpend₂.trans hpend₁.symm⟩

/-! ### The auxiliary commands and TICK -/

/-- A write to the adjacent state: the registers stay, nothing is answered. -/
theorem completes_of_withAdj {s : State} {i : Instr} {a' : Adjacent} (h : exec i s = .next (s.withAdj a')) :
    Completes i s fun k a o => k = s.core ∧ a = a' ∧ o.response = none :=
  ⟨_, _, _, h, rfl, rfl, rfl⟩

/-- Settles O24: RS and R6 are answers (`completes_of_answer`), S6 and U6 writes of one flag (`completes_of_withAdj`). -/
theorem auxiliaryCommandsUseTheFlags : Obligations.AuxiliaryCommandsUseTheFlags := by
  rintro ⟨c, k, a, o, q⟩
  refine ⟨rfl, rfl, rfl, rfl, ?rs, ?r6, ?s6, ?u6⟩
  case rs => exact completes_of_answer (exec_rs c k a o q)
  case r6 => exact completes_of_answer (exec_r6 c k a o q)
  case s6 => exact completes_of_withAdj (exec_s6 c k a o q)
  case u6 => exact completes_of_withAdj (exec_u6 c k a o q)

/-- Settles O25: TICK writes two fields of the adjacent state (`exec_tick`), the pin from the flag as it stood. -/
theorem tickSamplesAlarmAndDrivesEnablePin : Obligations.TickSamplesAlarmAndDrivesEnablePin := by
  rintro ⟨c, k, a, o, q⟩ alarmIn
  exact completes_of_withAdj (exec_tick c k a o q alarmIn)

end Sys2Proof.Machine
end

section
/-! PROOFS. The exceptions (spec/60_exceptions.md): no operation faults (rule R140), the order of two simultaneous events
(rule R147), and the pin mode, which no event reads (rule R151). -/

namespace Sys2Proof.Machine

variable {c : Config}

/-! ### The pin mode -/

theorem receiveByte_setDriveEn (k : CoreRegs c) (v : Bit) (d : Byte) :
    (k.setDriveEn v).receiveByte d = (k.receiveByte d).setDriveEn v := by
  obtain hp | hp := bit_zero_or_one k.phase
  · rw [receiveByte_first k d hp, receiveByte_first (k.setDriveEn v) d hp]
    rfl
  · rw [receiveByte_second_eq k d hp, receiveByte_second_eq (k.setDriveEn v) d hp]
    rfl

theorem receiveBit_setDriveEn (k : CoreRegs c) (v b : Bit) :
    (k.setDriveEn v).receiveBit b = (k.receiveBit b).setDriveEn v := by
  by_cases hn : k.bitcnt = 7
  · rw [receiveBit_last k b hn, receiveBit_last (k.setDriveEn v) b hn]
    exact receiveByte_setDriveEn { k with sr := shiftIn c.msbFirst k.sr b, bitcnt := 0 } v _
  · rw [receiveBit_inside k b hn, receiveBit_inside (k.setDriveEn v) b hn]
    rfl

theorem observeFv_setDriveEn (k : CoreRegs c) (v l : Bit) :
    (k.setDriveEn v).observeFv l = (k.observeFv l).setDriveEn v := by
  rw [observeFv_eq_monitored, observeFv_eq_monitored]
  rfl

/-- A host write reaches the pin mode only to set it, whatever it was (rule R88). -/
theorem HostWrite.apply_setDriveEn (w : HostWrite c) (k : CoreRegs c) (v : Bit) :
    ∃ v', w.apply (k.setDriveEn v) = (w.apply k).setDriveEn v' := by
  cases w with
  | keep | set _ | clear _ | arm _ => exact ⟨v, rfl⟩
  | driveMode new => exact ⟨new, rfl⟩

/-- No event carries the pin mode into another register (rules R17, R151). -/
theorem coreAfter_setDriveEn (pend : Option Byte) (e : Event) (k : CoreRegs c) (v : Bit) :
    ∃ v', coreAfter pend e (k.setDriveEn v) = (coreAfter pend e k).setDriveEn v' := by
  obtain ⟨port, word⟩ := e
  have hwrite := (hostWrite c pend ⟨port, word⟩).apply_setDriveEn k v
  cases port
  case bus => exact ⟨v, receiveByte_setDriveEn k v _⟩
  case serial => exact ⟨v, receiveBit_setDriveEn k v _⟩
  case frameValid => exact ⟨v, observeFv_setDriveEn k v _⟩
  case resetLine => exact ⟨c.driveEnReset, rfl⟩
  all_goals exact hwrite

/-- Settles O54: what an event does beside CORE rests on `frame` and `persist` alone (`exec_event_writes`), and in CORE the
pin mode stays where it is (`coreAfter_setDriveEn`). -/
theorem driveModeAffectsNothingElse : Obligations.DriveModeAffectsNothingElse := by
  rintro ⟨c, k, a, o, q⟩ e rest v hs
  cases hs
  obtain ⟨a', o', hstep, hstep'⟩ := exec_event_writes e a k (k.setDriveEn v) o rest rfl rfl
  obtain ⟨v', hv'⟩ := coreAfter_setDriveEn a.pend e k v
  rw [hv'] at hstep'
  exact ⟨_, a', o', v', hstep, hstep'⟩

/-! ### No fault, no refusal -/

/-- Settles O8: every operation completes (`exec_completes`), and a step is one operation, or idles. -/
theorem nothingFaultsOrIsRefused : Obligations.NothingFaultsOrIsRefused := by
  have hexec : ∀ (i : Instr) (s : State), ∃ t, exec i s = .next t := by
    intro i s
    obtain ⟨_, _, _, h, -⟩ := exec_completes i s
    exact ⟨_, h⟩
  refine ⟨hexec, ?_⟩
  rintro ⟨c, k, a, o, q⟩
  cases q with
  | nil => exact ⟨_, step_empty c k a o⟩
  | cons e rest => exact hexec (decode c e) ⟨c, k, a, o, rest⟩

/-! ### ARM beside the completing byte -/

theorem getLsbD_linesOf_receiveByte_second (hc : ConfigValid c) (k : CoreRegs c) (d : Byte) (hp : k.phase = 1) {j : Nat}
    (hj : j < 2) :
    (linesOf c (k.receiveByte d).pout).getLsbD j = effectiveBit k (rowShift c (rowOf (frameOf k.buf0 d)) + j) := by
  rw [receiveByte_second_eq k d hp, linesOf_driven hc.lines_in_port, getLsbD_ovmux k _ hj]

theorem oneshot_receiveByte_second_of_inSlice (k : CoreRegs c) (d : Byte) (hp : k.phase = 1) {i : Nat}
    (hi : inSlice c (rowOf (frameOf k.buf0 d)) i = true) : (k.receiveByte d).oneshot.getLsbD i = false := by
  rw [receiveByte_second_eq k d hp, getLsbD_consumed, hi, Bool.not_true, Bool.and_false]

theorem getLsbD_armBits_oneshot (k : CoreRegs c) (m i : Nat) :
    (k.armBits (overlayOfMask c m)).oneshot.getLsbD i = (k.oneshot.getLsbD i || maskBit c m i) := by
  rw [CoreRegs.armBits_eq, getLsbD_or_overlayOfMask]

theorem effectiveBit_armBits (k : CoreRegs c) (m i : Nat) :
    effectiveBit (k.armBits (overlayOfMask c m)) i = (effectiveBit k i || maskBit c m i) := by
  rw [effectiveBit, getLsbD_armBits_oneshot, CoreRegs.armBits_eq, effectiveBit, Bool.or_assoc]

/-- Settles O58: the engine of the byte shows the bits that are effective when it runs and disarms its row, so a mask armed
before it shows and is gone, and a mask armed after it is all that the row has armed. -/
theorem armBesideTheCompletingByte : Obligations.ArmBesideTheCompletingByte := by
  rintro ⟨c, k, a, o, q⟩ m d t u hc (hp : k.phase = 1) ht hu
  cases ((runOps_cons (exec_arm c k a o q m)).trans (runOps_cons (exec_byte c _ a _ q d))).symm.trans ht
  cases ((runOps_cons (exec_byte c k a o q d)).trans (runOps_cons (exec_arm c _ a _ q m))).symm.trans hu
  refine ⟨fun j hj => ⟨?_, getLsbD_linesOf_receiveByte_second hc k d hp hj⟩, fun i hi => ⟨?_, ?_⟩⟩
  · exact (getLsbD_linesOf_receiveByte_second hc (k.armBits _) d hp hj).trans (effectiveBit_armBits k m _)
  · exact oneshot_receiveByte_second_of_inSlice (k.armBits _) d hp hi
  · calc ((k.receiveByte d).armBits (overlayOfMask c m)).oneshot.getLsbD i
      _ = ((k.receiveByte d).oneshot.getLsbD i || maskBit c m i) := getLsbD_armBits_oneshot _ m i
      _ = maskBit c m i := by rw [oneshot_receiveByte_second_of_inSlice k d hp hi, Bool.false_or]

/-! ### BYTE beside a frame-valid transition -/

/-- Refutes O57: right after reset the line is at 0, so level 1 is a transition. It leaves phase 0 when it comes after the
byte, and the byte leaves phase 1 when it comes after the level (rules R70, R90). -/
theorem not_byteAndFrameValidDifferAtPhaseOneOnly : ¬ Obligations.ByteAndFrameValidDifferAtPhaseOneOnly := by
  intro h
  have hbyteFirst : ∃ t, runOps [.byte 0x80, .fv 1] State.reset = .next t ∧ t.core.phase = 0 := ⟨_, rfl, by decide⟩
  have hlevelFirst : ∃ t, runOps [.fv 1, .byte 0x80] State.reset = .next t ∧ t.core.phase = 1 := ⟨_, rfl, by decide⟩
  obtain ⟨t, ht, hphase⟩ := hbyteFirst
  obtain ⟨u, hu, hphase'⟩ := hlevelFirst
  obtain rfl : t = u := Host.Outcome.next.inj (ht.symm.trans ((h State.reset 0x80 1 rfl).trans hu))
  exact absurd (hphase.symm.trans hphase') (by decide)

end Sys2Proof.Machine
end

section
/-! PROOFS. Runs and what is observed (spec/70_reset_and_hazards.md, section 5): a run takes every event of its list, each
with one entry of the observation, and of the state before its RESET only the configuration is left (rule R174). -/

namespace Sys2Proof.Machine

variable {c : Config}

/-- RESET leaves both lines at 0, wherever the configuration places them (rule R27, log entry 17). -/
theorem linesOf_coreReset : linesOf c (coreReset c).pout = 0 := by
  refine BitVec.eq_of_getLsbD_eq fun j hj => ?_
  have hline : isLine c (c.outShift + j) = true := decide_eq_true ⟨by omega, by omega⟩
  rw [getLsbD_linesOf _ j hj, coreReset, getLsbD_clearedLines, hline, Bool.not_true, Bool.and_false]
  exact BitVec.getLsbD_zero.symm

theorem observe_resetOf : observe (State.resetOf c) = ((c.driveEnReset, 0), none) := by
  change ((c.driveEnReset, linesOf c (coreReset c).pout), none) = _
  rw [linesOf_coreReset]

/-- One entry of the observation for each step, since every step completes (rule R140). -/
theorem length_observeThrough (events : List Event) (s : State) : (observeThrough events s).length = events.length := by
  induction events generalizing s with
  | nil => rfl
  | cons e rest ih =>
    obtain ⟨t, hstep⟩ := nothingFaultsOrIsRefused.2 s
    rw [observeThrough_cons e rest hstep, List.length_cons, List.length_cons, ih]

/-- As many steps as events are waiting take them all, and write no configuration. -/
theorem stepThrough_inbox {s : State} {events : List Event} (hs : s.inbox = events) :
    ∃ t, stepThrough events s = .next t ∧ t.cfg = s.cfg ∧ t.inbox = [] := by
  induction events generalizing s with
  | nil => exact ⟨s, stepThrough_nil s, rfl, hs⟩
  | cons e rest ih =>
    obtain ⟨t, hstep⟩ := nothingFaultsOrIsRefused.2 s
    obtain ⟨hcfg, hinbox⟩ := step_keeps_cfg_tail hstep
    have htail : t.inbox = rest := by rw [hinbox, hs, List.tail_cons]
    obtain ⟨u, hrest, hcfg', hempty⟩ := ih htail
    exact ⟨u, (stepThrough_cons e rest hstep).trans hrest, hcfg'.trans hcfg, hempty⟩

/-- Settles O60: after RESET the run goes on from the reset state of the configuration (`observeRun_eq`), whose pins are
`observe_resetOf`; the rest has one entry for each event, and the events waiting at its start are all taken. -/
theorem runObservesEachOperationOnce : Obligations.RunObservesEachOperationOnce := by
  intro s events
  have hrun := observeRun_eq events s
  rw [observe_resetOf] at hrun
  refine ⟨⟨_, hrun, length_observeThrough events _⟩, fun s' hcfg => ?independent, ?final⟩
  case independent => rw [observeRun_eq, observeRun_eq, hcfg]
  case final => exact stepThrough_inbox (s := runStart s events) rfl

end Sys2Proof.Machine
end
